-- ==== Sys2Proof/Word.lean ====
section
/-! DEFINITION. The word types of the engine and the small closed sets of names its frames are written with.
A byte is 8 bits (R91), a PDU field 16 bits (R66), a time `TIME_W` = 32 bits (R12), a counter `CNT_W` = 16 bits (R13). -/

namespace Sys2Proof

/-- One byte of a frame (R91). -/
abbrev Byte := BitVec 8

/-- One 16-bit field of a PDU, one storage word of a table, one stub register (R66, R39, R40). -/
abbrev Word := BitVec 16

/-- A value of the microsecond time input, `TIME_W` = 32 bits (R12). -/
abbrev Time := BitVec 32

/-- A statistics counter, `CNT_W` = 16 bits (R13). -/
abbrev Count := BitVec 16

/-- Who sends a frame: the master (a request) or the engine (a reply). The function byte alone does not tell (R94, R96). -/
inductive Direction
  | request
  | reply
  deriving DecidableEq, Repr

/-- The three exception codes (R256). -/
inductive ExcCode
  | illegalFunction
  | illegalDataAddress
  | illegalDataValue
  deriving DecidableEq, Repr

/-- What stands between the function byte and the CRC of a request with function 0x02 or 0x05: the two 16-bit fields of
the 8-byte form (R94, R95), or the payload of a frame of any other length (R109), which is never parsed. -/
inductive RequestBody
  | fields (x y : Word)
  | malformed (payload : List Byte)
  deriving DecidableEq, Repr

end Sys2Proof
end

