-- ==== Sys2Proof/Machine/Operands.lean ====
section
/-! DEFINITION. Operand assembly: 16-bit fields out of frame bytes and back (R66, R99), the byte count and the data bytes of
a Read Discrete Inputs reply (R100, R101), the bytes of an exception code (R256), the payload of a frame (R90). -/

namespace Sys2Proof.Machine

/-- `BE16(h, l)`: the 16-bit value of two bytes, the high byte first on the wire (R17, R66). -/
def be16 (h l : Byte) : Word := h ++ l

/-- The high byte of a 16-bit value, `v[15:8]`. -/
def hiByte (v : Word) : Byte := v.extractLsb' 8 8

/-- The low byte of a 16-bit value, `v[7:0]`. -/
def loByte (v : Word) : Byte := v.extractLsb' 0 8

/-- `bc = ceil(quantity/8)` (R100). -/
def byteCount (quantity : Nat) : Nat := (quantity + 7) / 8

/-- Bit `k` of data byte `j`: the requested bit when `8j + k < quantity`, else the zero padding (R101). -/
def dataBit (bit : Nat → Bool) (quantity j k : Nat) : Bool := decide (8 * j + k < quantity) && bit (8 * j + k)

/-- Data byte `j` of a reply, bit 0 the lowest input index (R68, R101). -/
def dataByte (bit : Nat → Bool) (quantity j : Nat) : Byte :=
  BitVec.ofBool (dataBit bit quantity j 7) ++ BitVec.ofBool (dataBit bit quantity j 6) ++
  BitVec.ofBool (dataBit bit quantity j 5) ++ BitVec.ofBool (dataBit bit quantity j 4) ++
  BitVec.ofBool (dataBit bit quantity j 3) ++ BitVec.ofBool (dataBit bit quantity j 2) ++
  BitVec.ofBool (dataBit bit quantity j 1) ++ BitVec.ofBool (dataBit bit quantity j 0)

/-- The data bytes of a reply that carries `quantity` bits, the bit at offset `i` being `bit i` (R101, R183). -/
def dataBytes (bit : Nat → Bool) (quantity : Nat) : List Byte :=
  (List.range (byteCount quantity)).map (dataByte bit quantity)

/-- The byte an exception code is sent as (R256). -/
def excByte : ExcCode → Byte
  | .illegalFunction => 0x01#8
  | .illegalDataAddress => 0x02#8
  | .illegalDataValue => 0x03#8

/-- `function OR 0x80`, the function byte of an exception reply (R98, R106). -/
def excFunction (f : Byte) : Byte := f ||| 0x80#8

/-- The function byte of an exception reply from its low 7 bits. -/
def excFunction7 (f : BitVec 7) : Byte := 1#1 ++ f

/-- All but the two CRC bytes of a frame (R90). -/
def beforeCrc (frame : List Byte) : List Byte := frame.take (frame.length - 2)

/-- The two CRC bytes at the end of a frame, low byte first (R67), as a 16-bit value: `rx_buf[n-2] + 256 * rx_buf[n-1]`. -/
def receivedCrc (frame : List Byte) : Word :=
  be16 (frame.getD (frame.length - 1) 0) (frame.getD (frame.length - 2) 0)

end Sys2Proof.Machine
end

