-- ==== Sys2Proof/Machine/Crc.lean ====
section
/-! DEFINITION. The CRC engine: `crc16` by the two lookup tables (R121, R122), and the bit-serial form of R127. It has no state
(R126). The table contents are the spec's own general knowledge (G1, log 19). -/

namespace Sys2Proof.Machine

/-- One bit of the reflected CRC: shift right, and add the constant 0xA001 when a 1 falls out (R122). -/
def crcShift (c : Word) : Word := if c.getLsbD 0 then (c >>> 1) ^^^ 0xA001#16 else c >>> 1

/-- `n` bits of the reflected CRC. -/
def crcShifts : Nat → Word → Word
  | 0, c => c
  | n + 1, c => crcShifts n (crcShift c)

/-- `T[i]` (R122). -/
def crcTable (i : Byte) : Word := crcShifts 8 (i.setWidth 16)

/-- `table_high[i] = T[i][7:0]` (R122: the name is the source's, the contents are the low bytes). -/
def tableHigh (i : Byte) : Byte := loByte (crcTable i)

/-- `table_low[i] = T[i][15:8]` (R122). -/
def tableLow (i : Byte) : Byte := hiByte (crcTable i)

/-- The two accumulators of R121. -/
structure CrcAcc where
  lo : Byte
  hi : Byte
  deriving DecidableEq, Repr

/-- The update of the accumulators for one input byte (R121). -/
def crcStep (acc : CrcAcc) (b : Byte) : CrcAcc :=
  { lo := acc.hi ^^^ tableHigh (acc.lo ^^^ b), hi := tableLow (acc.lo ^^^ b) }

/-- The accumulators after a byte sequence, seeded with all-ones (R121). -/
def crcAcc (bytes : List Byte) : CrcAcc := bytes.foldl crcStep { lo := 0xFF#8, hi := 0xFF#8 }

/-- `crc16(b, n)`: `{hi, lo}` (R121). -/
def crc16 (bytes : List Byte) : Word := be16 (crcAcc bytes).hi (crcAcc bytes).lo

/-- The two CRC bytes that follow a byte sequence on the wire, low byte first (R102, R124). -/
def crcBytes (bytes : List Byte) : List Byte := [loByte (crc16 bytes), hiByte (crc16 bytes)]

/-- One input byte of the bit-serial form (R127). -/
def crcSerialStep (c : Word) (b : Byte) : Word := crcShifts 8 (c ^^^ b.setWidth 16)

/-- The bit-serial definition of the same checksum (R127). -/
def crc16Serial (bytes : List Byte) : Word := bytes.foldl crcSerialStep 0xFFFF#16

/-- The validator's comparison: the received CRC equals the checksum of all preceding bytes (R163). -/
def crcMatches (frame : List Byte) : Bool := receivedCrc frame == crc16 (beforeCrc frame)

end Sys2Proof.Machine
end

