-- ==== Sys2Proof/Syntax.lean ====
section
/-! DEFINITION. The instructions of the engine: one constructor for each row of `spec/opcode_table.json`.
Every constructor carries the address byte of its frame. No constructor carries the CRC: it is a function of the bytes
before it (R102, log 14). -/

namespace Sys2Proof

/-- The frames of the opcode table: five requests and three replies (R94 to R98, R105, R111). -/
inductive Instr
  /-- `RDI`: Read Discrete Inputs request, fields start and quantity (R94, R179). -/
  | rdi (a : Byte) (body : RequestBody)
  /-- `WSC`: Write Single Coil request, fields coil address and output value (R95, R186). -/
  | wsc (a : Byte) (body : RequestBody)
  /-- `WSC.ON`: the pseudo-form of `WSC` with value 0xFF00 (R111). -/
  | wscOn (a : Byte) (coil : Word)
  /-- `WSC.OFF`: the pseudo-form of `WSC` with value 0x0000 (R111). -/
  | wscOff (a : Byte) (coil : Word)
  /-- `ILLEGAL`: a request with any function code other than 0x02 and 0x05 (R105, R192). -/
  | illegal (a f : Byte) (payload : List Byte)
  /-- `RDI.RSP`: Read Discrete Inputs reply with its data bytes (R96). -/
  | rdiRsp (a : Byte) (data : List Byte)
  /-- `WSC.RSP`: Write Single Coil reply, the echo of a request (R97). -/
  | wscRsp (a : Byte) (coil value : Word)
  /-- `EXC`: exception reply, the low 7 bits of the request's function code and the exception code (R98). -/
  | exc (a : Byte) (f : BitVec 7) (code : ExcCode)
  deriving DecidableEq, Repr

/-- Whether the frame is a request or a reply (the table's column "direction"). -/
def Instr.direction : Instr → Direction
  | .rdi _ _ => .request
  | .wsc _ _ => .request
  | .wscOn _ _ => .request
  | .wscOff _ _ => .request
  | .illegal _ _ _ => .request
  | .rdiRsp _ _ => .reply
  | .wscRsp _ _ _ => .reply
  | .exc _ _ _ => .reply

/-- The address byte of the frame, byte 0 (R90). -/
def Instr.address : Instr → Byte
  | .rdi a _ => a
  | .wsc a _ => a
  | .wscOn a _ => a
  | .wscOff a _ => a
  | .illegal a _ _ => a
  | .rdiRsp a _ => a
  | .wscRsp a _ _ => a
  | .exc a _ _ => a

end Sys2Proof
end

