-- ==== Sys2Proof/WellFormed.lean ====
section
/-! DEFINITION. Which terms of `Instr` are frames of the table. -/

namespace Sys2Proof

/-- The largest payload of a frame: 256 bytes less address, function and CRC (R90, R93). -/
abbrev maxPayload : Nat := 252

/-- The largest byte count of a Read Discrete Inputs reply (R100). -/
abbrev maxByteCount : Nat := 250

/-- A malformed body fits a frame and does not have the length of the 8-byte form (R109). -/
def RequestBody.wf : RequestBody → Bool
  | .fields _ _ => true
  | .malformed p => p.length ≤ maxPayload && p.length != 4

/-- Well-formedness of a frame: lengths (R93, R100, R109), the function codes of the other rows (R105), and the value of an
echoed Write Single Coil, which has passed the value check of R188 (R97, log 21). -/
def Instr.wf : Instr → Bool
  | .rdi _ body => body.wf
  | .wsc _ body => body.wf
  | .wscOn _ _ => true
  | .wscOff _ _ => true
  | .illegal _ f p => f != 0x02#8 && f != 0x05#8 && p.length ≤ maxPayload
  | .rdiRsp _ data => data.length ≤ maxByteCount
  | .wscRsp _ _ v => v == 0x0000#16 || v == 0xFF00#16
  | .exc _ _ _ => true

end Sys2Proof
end

