-- ==== Sys2Proof/Decode.lean ====
section
/-! DEFINITION. Decoding of frames, total on any byte list and rejecting by name, and after it the encoder, both written
from R90 to R111. A frame is decoded in a direction: the function byte of a reply is that of its request, so only the buffer
a frame stands in tells the two apart (R94, R96). The CRC bytes are not looked at here: R104 places the CRC test before. -/

namespace Sys2Proof

open Sys2Proof.Machine

/-- Why a byte list is no frame of the table. -/
inductive DecodeError
  /-- Fewer than 4 bytes (R93). -/
  | tooShort
  /-- More than 256 bytes (R93). -/
  | tooLong
  /-- A reply whose length is not the one its function byte and byte count require (R96, R97, R98). -/
  | replyLength
  /-- A function byte no reply has (R96, R97, R98). -/
  | replyFunction
  /-- A Write Single Coil reply whose value is neither 0x0000 nor 0xFF00 (R97, R188). -/
  | replyValue
  /-- An exception reply whose code is not 0x01, 0x02 or 0x03 (R256). -/
  | exceptionCode
  deriving DecidableEq, Repr

/-- The body of a request with function 0x02 or 0x05: two big-endian fields when the payload has 4 bytes, that is the frame
8 (R94, R95), and unparsed otherwise (R109). -/
def decodeBody (payload : List Byte) : RequestBody :=
  match payload with
  | [x1, x0, y1, y0] => .fields (be16 x1 x0) (be16 y1 y0)
  | p => .malformed p

/-- A request by its function byte (R103). -/
def decodeRequestParts (a f : Byte) (payload : List Byte) : Instr :=
  if f = 0x02#8 then .rdi a (decodeBody payload)
  else if f = 0x05#8 then .wsc a (decodeBody payload)
  else .illegal a f payload

/-- A received frame: 4 to 256 bytes, then the map of R103 (R93, R104). -/
def decodeRequest (frame : List Byte) : Except DecodeError Instr :=
  match frame with
  | a :: f :: rest =>
    if rest.length < 2 then .error .tooShort
    else if 254 < rest.length then .error .tooLong
    else .ok (decodeRequestParts a f (beforeCrc rest))
  | _ => .error .tooShort

/-- The code of an exception reply (R256). -/
def decodeExcCode (e : Byte) : Except DecodeError ExcCode :=
  if e = 0x01#8 then .ok .illegalFunction
  else if e = 0x02#8 then .ok .illegalDataAddress
  else if e = 0x03#8 then .ok .illegalDataValue
  else .error .exceptionCode

/-- A reply by its function byte: bit 7 set, an exception; 0x02 or 0x05, the reply of that function (R96, R97, R98). -/
def decodeReplyParts (a f : Byte) (payload : List Byte) : Except DecodeError Instr :=
  if f.getLsbD 7 then
    match payload with
    | [e] =>
      match decodeExcCode e with
      | .ok c => .ok (.exc a (f.setWidth 7) c)
      | .error r => .error r
    | _ => .error .replyLength
  else if f = 0x02#8 then
    match payload with
    | n :: data => if n.toNat = data.length && data.length ≤ maxByteCount then .ok (.rdiRsp a data) else .error .replyLength
    | [] => .error .replyLength
  else if f = 0x05#8 then
    match payload with
    | [c1, c0, v1, v0] =>
      if be16 v1 v0 == 0x0000#16 || be16 v1 v0 == 0xFF00#16 then .ok (.wscRsp a (be16 c1 c0) (be16 v1 v0))
      else .error .replyValue
    | _ => .error .replyLength
  else .error .replyFunction

/-- A reply frame, CRC included. -/
def decodeReply (frame : List Byte) : Except DecodeError Instr :=
  match frame with
  | a :: f :: rest =>
    if rest.length < 2 then .error .tooShort
    else if 254 < rest.length then .error .tooLong
    else decodeReplyParts a f (beforeCrc rest)
  | _ => .error .tooShort

/-- The decoder: a byte list, read as a request or as a reply. -/
def decode : Direction → List Byte → Except DecodeError Instr
  | .request, frame => decodeRequest frame
  | .reply, frame => decodeReply frame

/-! ### The encoder -/

/-- The payload bytes of a request body, each field high byte first (R66). -/
def encodeBody : RequestBody → List Byte
  | .fields x y => [hiByte x, loByte x, hiByte y, loByte y]
  | .malformed p => p

/-- The bytes of a frame before its CRC (R94 to R98, R105, R111). -/
def Instr.bytes : Instr → List Byte
  | .rdi a body => a :: 0x02#8 :: encodeBody body
  | .wsc a body => a :: 0x05#8 :: encodeBody body
  | .wscOn a c => [a, 0x05#8, hiByte c, loByte c, 0xFF#8, 0x00#8]
  | .wscOff a c => [a, 0x05#8, hiByte c, loByte c, 0x00#8, 0x00#8]
  | .illegal a f p => a :: f :: p
  | .rdiRsp a data => a :: 0x02#8 :: BitVec.ofNat 8 data.length :: data
  | .wscRsp a c v => [a, 0x05#8, hiByte c, loByte c, hiByte v, loByte v]
  | .exc a f code => [a, excFunction7 f, excByte code]

/-- The frame of an instruction on the wire: its bytes and then their CRC, low byte first (R90, R102). -/
def encode (i : Instr) : List Byte := i.bytes ++ crcBytes i.bytes

/-- What a written form stands for: `WSC.ON` and `WSC.OFF` expand to `WSC`, every other form is itself (R111). -/
def Instr.core : Instr → Instr
  | .wscOn a c => .wsc a (.fields c 0xFF00#16)
  | .wscOff a c => .wsc a (.fields c 0x0000#16)
  | .rdi a body => .rdi a body
  | .wsc a body => .wsc a body
  | .illegal a f p => .illegal a f p
  | .rdiRsp a data => .rdiRsp a data
  | .wscRsp a c v => .wscRsp a c v
  | .exc a f code => .exc a f code

/-! ### The opcode table's numbering of a frame -/

/-- The `n` bytes of a number, the most significant first. -/
def bigEndian : Nat → Nat → List Byte
  | 0, _ => []
  | n + 1, w => BitVec.ofNat 8 (w >>> (8 * n)) :: bigEndian n w

/-- The frame a word of the opcode table stands for. The table numbers the rows RDI, WSC, ILLEGAL and the replies over the
function byte alone (frame byte 1): a word of one byte is that byte, in an 8-byte frame whose other bytes are 0. It numbers a
whole frame with byte 0 most significant. (log 13) -/
def tableFrame (nbits w : Nat) : List Byte :=
  if nbits ≤ 8 then 0 :: BitVec.ofNat 8 w :: List.replicate 6 0
  else bigEndian (min ((nbits + 7) / 8) 256) w

/-- The instruction the decoder of received frames reads from a word of the table. -/
def decodeTableWord (nbits w : Nat) : Option Instr :=
  match decodeRequest (tableFrame nbits w) with
  | .ok i => some i
  | .error _ => none

end Sys2Proof
end

