-- ==== Sys2Proof/Machine/Events.lean ====
section
/-! DEFINITION. What the outside can do to the engine: the events of R15 and, for the clocked binding, one clock cycle's
inputs on the ports of R230. -/

namespace Sys2Proof.Machine

/-- The events of the engine (R15). -/
inductive Event
  /-- `Reset` (R290). -/
  | reset
  /-- `RxByte(d, perr, ferr, oerr, t)`: one received byte with its three line-error flags at time `t` (R133 to R141). -/
  | rxByte (d : Byte) (perr ferr oerr : Bool) (t : Time)
  /-- `Step(t, tx_ready, tx_flushed)`: one invocation of the processing step (R142). -/
  | step (t : Time) (txReady txFlushed : Bool)
  /-- `HostSetAddr(a)` (R235). -/
  | hostSetAddr (a : Byte)
  /-- `HostSetInput(i, v)` (R236). -/
  | hostSetInput (i : Word) (v : Bool)
  /-- `HostGetInput(i)` (R237). -/
  | hostGetInput (i : Word)
  /-- `HostSetCoil(i, v)` (R238). -/
  | hostSetCoil (i : Word) (v : Bool)
  /-- `HostGetCoil(i)` (R239). -/
  | hostGetCoil (i : Word)
  /-- `HostStats()` (R240). -/
  | hostStats
  deriving DecidableEq, Repr, Inhabited

/-- The input ports of one clock cycle, sampled at the rising edge (R230, R231). `clk` is the edge itself. -/
structure PortsIn where
  rst : Bool := false
  nowUs : Time
  rxValid : Bool := false
  rxData : Byte := 0
  rxPerr : Bool := false
  rxFerr : Bool := false
  rxOerr : Bool := false
  txReady : Bool := false
  txFlushed : Bool := false
  addrWe : Bool := false
  addrWdata : Byte := 0
  diWe : Bool := false
  diWidx : Word := 0
  diWdata : Bool := false
  diRidx : Word := 0
  coilWe : Bool := false
  coilWidx : Word := 0
  coilWdata : Bool := false
  coilRidx : Word := 0
  deriving DecidableEq, Repr, Inhabited

/-- The output ports of R230. -/
structure PortsOut where
  rxEn : Bool
  txValid : Bool
  txData : Byte
  de : Bool
  addrQ : Byte
  diRdata : Bool
  coilRdata : Bool
  statQ : BitVec 128
  phaseQ : BitVec 3
  deriving DecidableEq, Repr

/-- What one step of the model consumes: one event of the event model (R15), or one clock edge of the clocked binding (R231). -/
inductive Input
  | event (e : Event)
  | clock (p : PortsIn)
  deriving DecidableEq, Repr, Inhabited

end Sys2Proof.Machine
end

