-- ==== Sys2Proof/Config.lean ====
section
/-! DEFINITION. What an instance fixes (the parameters of R8 to R14) and the free values: constants without a body, about which
nothing can be proved. -/

namespace Sys2Proof

/-- The capacity in bytes of each of the two frame buffers, `RX_CAP = TX_CAP = 256` (R8). -/
abbrev Config.bufferCap : Nat := 256

/-- The parameters that the spec leaves open, R9, R10, R11, R14. The spec makes this record an argument of the model; the
model carries it beside the engine's state and no step changes it (log 1). -/
structure Params where
  /-- `N_INPUTS` (R9). -/
  nInputs : Nat
  /-- `N_COILS` (R9). -/
  nCoils : Nat
  /-- `N_INPUT_REGS` (R10). -/
  nInputRegs : Nat
  /-- `N_HOLDING_REGS` (R10). -/
  nHoldingRegs : Nat
  /-- `T15_US` (R11). -/
  t15 : Time
  /-- `T35_US` (R11). -/
  t35 : Time
  /-- `ADDR_RESET` (R14). -/
  addrReset : Byte
  deriving DecidableEq, Repr

/-- The constraints of R9 and R11. A configuration outside them is refused (R306, U6, U7, log 8). -/
def Params.ok (p : Params) : Bool :=
  p.nInputs ≤ 2000 && p.nCoils ≤ 65536 && decide (0 < p.t15.toNat) && p.t15.toNat ≤ p.t35.toNat &&
  decide (p.t35.toNat < 2 ^ 31)

/-- The example configuration CFG-A of section 0 of `95_test_vectors.md`. DESIGN CHOICE (log 1), unsafe: the spec gives no values,
and only `State.reset` uses these. -/
def Config.example : Params :=
  { nInputs := 16, nCoils := 16, nInputRegs := 0, nHoldingRegs := 0,
    t15 := 750#32, t35 := 1750#32, addrReset := 0x11#8 }

/-- FREE VALUE: input number `k` of an environment that nothing constrains, taken when no input is scheduled (log 2). -/
opaque Config.freeInput : Nat → Machine.Input

/-- FREE VALUE: `tx_data` while `tx_valid = 0`, which the spec leaves unspecified (R230, U9, log 15). -/
opaque Config.freeTxData : Nat → Byte

end Sys2Proof
end

