-- ==== Sys2Proof/Machine/State.lean ====
section
/-! DEFINITION. The state: `Engine` is the complete list of R20, `State` adds what the spec keeps outside the engine's state
(R48): the parameters, the inputs still to come, and the observation. With them the reasons a step can stop, the plain
setters, and reset. -/

namespace Sys2Proof.Machine

/-- The eight phases, the engine's program counter (R21). -/
inductive Phase
  | init
  | idle
  | reception
  | waiting
  | processingResponse
  | processingNoResponse
  | discard
  | emission
  deriving DecidableEq, Repr

/-- The three sub-states of phase EMISSION (R30). -/
inductive Emit
  | arm
  | send
  | flush
  deriving DecidableEq, Repr

/-- The two byte buffers, disjoint spaces (R35, R60). -/
inductive Space
  | rx
  | tx
  deriving DecidableEq, Repr

/-- The eight counters by D0's names, in D0's order (R41). -/
inductive CounterId
  | busMsg
  | busErr
  | exc
  | slaveMsg
  | noResp
  | nak
  | busy
  | overrun
  deriving DecidableEq, Repr

/-- The counter file `cnt[0..7]` (R41). -/
structure Counters where
  busMsg : Count
  busErr : Count
  exc : Count
  slaveMsg : Count
  noResp : Count
  nak : Count
  busy : Count
  overrun : Count
  deriving DecidableEq, Repr

/-- The complete state of one engine instance: the rows of R20, in their order. -/
structure Engine where
  /-- R21. -/
  phase : Phase
  /-- R24: 9 bits, 0 to 256. -/
  rxCount : Nat
  /-- R25. -/
  lastTs : Time
  /-- R26: true is OK. -/
  integrityOk : Bool
  /-- R27: 9 bits, 0 to 256. -/
  txLen : Nat
  /-- R28. -/
  txPending : Bool
  /-- R29: 9 bits, 0 to 256. -/
  txIdx : Nat
  /-- R30. -/
  emit : Emit
  /-- R31. -/
  de : Bool
  /-- R32. -/
  rxEn : Bool
  /-- R33: the cells that hold a value. A cell not listed has none (R47, log 5). -/
  rxBuf : List Host.Cell
  /-- R34: as `rxBuf`. -/
  txBuf : List Host.Cell
  /-- R36. -/
  slaveAddr : Byte
  /-- R37, in storage words of 16 bits (R39). -/
  di : List Word
  /-- R38, in storage words of 16 bits (R39). -/
  coil : List Word
  /-- R40. -/
  ireg : List Word
  /-- R40. -/
  hreg : List Word
  /-- R41. -/
  cnt : Counters
  deriving DecidableEq, Repr

/-- One byte handed to the serial driver, with the value of `de` when it was handed over (R16 (a), R214). -/
structure Sent where
  byte : Byte
  de : Bool
  deriving DecidableEq, Repr

/-- The model's own part of the state, none of it the engine's (R48): the inputs scheduled, the number of inputs taken so
far (the free values are applied to it), and the observation of R16 (a), oldest first. -/
structure Env where
  inputs : List Input
  tick : Nat
  sent : List Sent
  deriving DecidableEq, Repr

/-- The state of the model: the engine's own state (R20), with the argument record and the environment beside it. -/
structure State where
  params : Params
  eng : Engine
  env : Env
  deriving DecidableEq, Repr

/-- Why a step can fault. None of these is a behaviour of the hardware, which has no fault (R250, R269): each one is the model's own
stop in a state that no run reaches, and each is safe. -/
inductive Fault
  /-- A read of a buffer cell that holds no valid byte: at or beyond the buffer's length, or never written (R33, R34, R47,
  logs 5 and 6). Raised by `readCell`. Safe. -/
  | noValue (space : Space) (index : Nat)
  /-- A write outside the 256 cells of a buffer (R62, R306, U7, log 7). Raised by `writeBytes`. Safe. -/
  | noCell (space : Space) (index : Nat)
  /-- A dispatch of a receive buffer that holds no frame, fewer than 4 bytes (R93, R162, log 9). Raised by `fetch`. Safe. -/
  | noFrame
  deriving DecidableEq, Repr

/-- Why a step can be refused. -/
inductive Refusal
  /-- An instruction without a meaning yet. No arm of `exec` answers so. -/
  | notModelled (mnemonic : String)
  /-- The parameters violate their constraints: "a model should refuse such a configuration" (R306, U6, U7, log 8). Raised by
  `advance`. Safe. -/
  | badConfiguration
  deriving DecidableEq, Repr

/-- The outcome of a step of this machine. -/
abbrev Result := Host.Outcome State Fault Refusal

/-! ### Setters -/

namespace State

def setPhase (s : State) (p : Phase) : State := { s with eng := { s.eng with phase := p } }

/-- The receive buffer and its count. -/
def setRx (s : State) (buf : List Host.Cell) (count : Nat) : State :=
  { s with eng := { s.eng with rxBuf := buf, rxCount := count } }

def setLastTs (s : State) (t : Time) : State := { s with eng := { s.eng with lastTs := t } }

def setIntegrity (s : State) (v : Bool) : State := { s with eng := { s.eng with integrityOk := v } }

/-- The transmit buffer and its length. -/
def setTx (s : State) (buf : List Host.Cell) (len : Nat) : State :=
  { s with eng := { s.eng with txBuf := buf, txLen := len } }

def setTxPending (s : State) (v : Bool) : State := { s with eng := { s.eng with txPending := v } }

def setTxIdx (s : State) (i : Nat) : State := { s with eng := { s.eng with txIdx := i } }

def setEmit (s : State) (e : Emit) : State := { s with eng := { s.eng with emit := e } }

/-- The direction of the line: `de` and `rx_en` (R31, R32). -/
def setLine (s : State) (de rxEn : Bool) : State := { s with eng := { s.eng with de := de, rxEn := rxEn } }

def setSlaveAddr (s : State) (a : Byte) : State := { s with eng := { s.eng with slaveAddr := a } }

def setDi (s : State) (t : List Word) : State := { s with eng := { s.eng with di := t } }

def setCoil (s : State) (t : List Word) : State := { s with eng := { s.eng with coil := t } }

def setCnt (s : State) (c : Counters) : State := { s with eng := { s.eng with cnt := c } }

def setEng (s : State) (e : Engine) : State := { s with eng := e }

/-- The observation `send(v)` appends to (R214). -/
def addSent (s : State) (x : Sent) : State := { s with env := { s.env with sent := s.env.sent ++ [x] } }

/-- One input has been taken; `rest` are those still to come. -/
def setInputs (s : State) (rest : List Input) : State :=
  { s with env := { s.env with inputs := rest, tick := s.env.tick + 1 } }

end State

/-! ### Reset -/

/-- All counters 0 (R47). -/
def Counters.zero : Counters :=
  { busMsg := 0, busErr := 0, exc := 0, slaveMsg := 0, noResp := 0, nak := 0, busy := 0, overrun := 0 }

/-- The storage words of a table of `n` bits, all bits 0: `ceil(n/16)` words (R39, R47). -/
def emptyTable (n : Nat) : List Word := List.replicate ((n + 15) / 16) 0

/-- The engine's state after `Reset`, for any parameters: the table of R47. The two buffers hold no value. -/
def Engine.reset (p : Params) : Engine :=
  { phase := .init, rxCount := 0, lastTs := 0, integrityOk := true, txLen := 0, txPending := false, txIdx := 0, emit := .arm,
    de := false, rxEn := true, rxBuf := [], txBuf := [], slaveAddr := p.addrReset,
    di := emptyTable p.nInputs, coil := emptyTable p.nCoils,
    ireg := List.replicate p.nInputRegs 0, hreg := List.replicate p.nHoldingRegs 0, cnt := Counters.zero }

/-- The machine right after reset, for any parameters, with nothing scheduled and nothing sent. -/
def State.resetWith (p : Params) : State :=
  { params := p, eng := Engine.reset p, env := { inputs := [], tick := 0, sent := [] } }

/-- The machine right after reset in the example configuration (log 1). -/
def State.reset : State := State.resetWith Config.example

end Sys2Proof.Machine
end

