-- ==== Sys2Proof/Machine/Flags.lean ====
section
/-! DEFINITION. Flags, counters and the two time predicates: the integrity flag under line errors (R141), the saturating
increment (R45), the elapsed time and the two timeouts (R131, R132), and the numeric encodings of `phase` and `cnt` at the ports. -/

namespace Sys2Proof.Machine

/-- `elapsed(t) = (t - last_ts) mod 2^TIME_W` (R131). -/
def elapsed (t : Time) (s : State) : Time := t - s.eng.lastTs

/-- `char_timeout(t)`: the inter-character silence has elapsed (R132). -/
def charTimeout (t : Time) (s : State) : Bool := s.params.t15.toNat ≤ (elapsed t s).toNat

/-- `frame_timeout(t)`: the inter-frame silence has elapsed (R132). -/
def frameTimeout (t : Time) (s : State) : Bool := s.params.t35.toNat ≤ (elapsed t s).toNat

/-- R141: a line error clears the integrity flag; without one the flag stays. -/
def lineError (err : Bool) (s : State) : State := if err then s.setIntegrity false else s

/-- The saturating increment of one counter value (R45). -/
def satInc (c : Count) : Count := if c = 0xFFFF#16 then c else c + 1

/-- `cnt[k]`. -/
def Counters.get (c : Counters) : CounterId → Count
  | .busMsg => c.busMsg
  | .busErr => c.busErr
  | .exc => c.exc
  | .slaveMsg => c.slaveMsg
  | .noResp => c.noResp
  | .nak => c.nak
  | .busy => c.busy
  | .overrun => c.overrun

/-- `inc(k)` on the counter file (R45). -/
def Counters.inc (c : Counters) : CounterId → Counters
  | .busMsg => { c with busMsg := satInc c.busMsg }
  | .busErr => { c with busErr := satInc c.busErr }
  | .exc => { c with exc := satInc c.exc }
  | .slaveMsg => { c with slaveMsg := satInc c.slaveMsg }
  | .noResp => { c with noResp := satInc c.noResp }
  | .nak => { c with nak := satInc c.nak }
  | .busy => { c with busy := satInc c.busy }
  | .overrun => { c with overrun := satInc c.overrun }

/-- `inc(k)` (R45). -/
def inc (k : CounterId) (s : State) : State := s.setCnt (s.eng.cnt.inc k)

/-- The numeric encoding of `phase` (R22). -/
def phaseCode : Phase → BitVec 3
  | .init => 0
  | .idle => 1
  | .reception => 2
  | .waiting => 3
  | .processingResponse => 4
  | .processingNoResponse => 5
  | .discard => 6
  | .emission => 7

/-- The eight counters on one port, `cnt[0]` in the low bits (R230, R240). -/
def statWord (c : Counters) : BitVec 128 :=
  c.overrun ++ c.busy ++ c.nak ++ c.noResp ++ c.slaveMsg ++ c.exc ++ c.busErr ++ c.busMsg

end Sys2Proof.Machine
end

