-- ==== Sys2Proof/Machine/Ops.lean ====
section
/-! DEFINITION. The operations over the two byte buffers and the bit tables, taking an exception and committing a reply, and the
return to IDLE. A buffer is a list of cells with strictly rising indices below 256 (`Memory.wf`); an unlisted cell has no value. -/

namespace Sys2Proof.Machine

/-! ### Byte buffers -/

/-- The value of cell `a`, if it has one. -/
def Memory.read : List Host.Cell → Nat → Option Byte
  | [], _ => none
  | (k, v) :: m, a => if a = k then some v else Memory.read m a

/-- Cell `a` takes the value `v`; the list stays sorted. -/
def Memory.write : List Host.Cell → Nat → Byte → List Host.Cell
  | [], a, v => [(a, v)]
  | (k, w) :: m, a, v =>
    if a < k then (a, v) :: (k, w) :: m
    else if a = k then (a, v) :: m
    else (k, w) :: Memory.write m a v

/-- The indices of the cells rise strictly from at least `lo` and lie below 256. -/
def Memory.rising : Nat → List Host.Cell → Bool
  | _, [] => true
  | lo, (k, _) :: m => decide (lo ≤ k) && decide (k < Config.bufferCap) && Memory.rising (k + 1) m

/-- The canonical form of a buffer. -/
def Memory.wf (m : List Host.Cell) : Bool := Memory.rising 0 m

/-- Read of cell `i` of a buffer whose valid cells are `0 .. len-1` (R33, R34). -/
def readCell (space : Space) (buf : List Host.Cell) (len i : Nat) : Except Fault Byte :=
  if i < len then
    match Memory.read buf i with
    | some v => .ok v
    | none => .error (.noValue space i)
  else .error (.noValue space i)

/-- The `n` cells from index `i` on. -/
def readCells (space : Space) (buf : List Host.Cell) (len : Nat) : Nat → Nat → Except Fault (List Byte)
  | _, 0 => .ok []
  | i, n + 1 =>
    match readCell space buf len i with
    | .error f => .error f
    | .ok v =>
      match readCells space buf len (i + 1) n with
      | .error f => .error f
      | .ok vs => .ok (v :: vs)

/-- Write of consecutive cells from index `i` on, each of which must exist (R61, R62). -/
def writeBytes (space : Space) (buf : List Host.Cell) : Nat → List Byte → Except Fault (List Host.Cell)
  | _, [] => .ok buf
  | i, v :: vs =>
    if i < Config.bufferCap then
      match writeBytes space buf (i + 1) vs with
      | .error f => .error f
      | .ok m => .ok (Memory.write m i v)
    else .error (.noCell space i)

/-- The received frame: `rx_buf[0 .. rx_count-1]` (R24). -/
def rxFrame (s : State) : Except Fault (List Byte) := readCells .rx s.eng.rxBuf s.eng.rxCount 0 s.eng.rxCount

/-- The valid bytes of the transmit buffer: `tx_buf[0 .. tx_len-1]` (R27). -/
def txFrame (s : State) : Except Fault (List Byte) := readCells .tx s.eng.txBuf s.eng.txLen 0 s.eng.txLen

/-! ### Bit tables -/

/-- Bit `i` of a table: bit `i mod 16` of word `i div 16` (R39); false beyond the storage. -/
def Table.get (t : List Word) (i : Nat) : Bool := (t.getD (i / 16) 0).getLsbD (i % 16)

/-- A word with its bit `k` set to `v`. -/
def setWordBit (w : Word) (k : Nat) (v : Bool) : Word :=
  if v then w ||| (1#16 <<< k) else w &&& ~~~(1#16 <<< k)

/-- Write of bit `i` of a table, every other bit unchanged (R39, R73). -/
def Table.set (t : List Word) (i : Nat) (v : Bool) : List Word :=
  t.set (i / 16) (setWordBit (t.getD (i / 16) 0) (i % 16) v)

/-- A table of `n` bits has `ceil(n/16)` words and its unused high bits read 0 (R39). -/
def Table.wf (n : Nat) (t : List Word) : Bool :=
  t.length == (n + 15) / 16 && (List.range (16 * t.length)).all fun i => decide (i < n) || !Table.get t i

/-! ### Replies and exceptions -/

/-- The commit of a reply without CRC: a unicast request's reply becomes the contents of the transmit buffer, a broadcast's is
thrown away; the phase becomes EMISSION either way (R178, R196). -/
def commit (reply : List Byte) (s : State) : Result :=
  if s.eng.phase = .processingResponse then
    match writeBytes .tx s.eng.txBuf 0 reply with
    | .error f => .fault f
    | .ok m => .next (((s.setTx m reply.length).setTxPending true).setPhase .emission)
  else .next (s.setPhase .emission)

/-- Taking an exception: `inc(EXC)`, the three-byte reply `[address, function OR 0x80, code]`, and its commit (R177, R194, R195,
R265). Nothing is saved and no table is written. -/
def takeException (a f : Byte) (code : ExcCode) (s : State) : Result :=
  commit [a, excFunction f, excByte code] (inc .exc s)

/-- The return, with or without an error before it: every exchange ends in IDLE, and there is nothing to restore (R211, R267). -/
def returnToIdle (s : State) : State := s.setPhase .idle

end Sys2Proof.Machine
end

