-- ==== Sys2Proof/Machine/Replies.lean ====
section
/-! DEFINITION. The meanings of the three reply forms (log 11). The engine executes a reply by committing it: the bytes before the
CRC go to the transmit buffer and the phase to EMISSION (R183, R190, R194, R196); the emitter then appends the CRC and sends it
(R212, R213). -/

namespace Sys2Proof.Machine

/-- `RDI.RSP`: the commit of `[address, 0x02, n, data...]` (R96, R183, R196). -/
def execRdiRsp (a : Byte) (data : List Byte) (s : State) : Result := commit (Instr.rdiRsp a data).bytes s

/-- `WSC.RSP`: the commit of the six echoed bytes (R97, R190, R196). -/
def execWscRsp (a : Byte) (coil value : Word) (s : State) : Result := commit (Instr.wscRsp a coil value).bytes s

/-- `EXC`: an exception is taken, which counts it and commits its reply (R98, R194, R195). -/
def execExc (a : Byte) (f : BitVec 7) (code : ExcCode) (s : State) : Result := takeException a (excFunction7 f) code s

end Sys2Proof.Machine
end

