-- ==== Sys2Proof/Machine/Requests.lean ====
section
/-! DEFINITION. The meanings of the five request forms: Read Discrete Inputs (R179 to R185), Write Single Coil with its two
pseudo-forms (R186 to R191, R111), and every other function code (R192). Each is the dispatcher's work on one accepted frame,
ending in a commit (R177, R196). -/

namespace Sys2Proof.Machine

/-- `Ok` of R179: the reply `[address, 0x02, bc, data...]` with the requested run of bits (R183). -/
def readInputsReply (a : Byte) (start quantity : Nat) (s : State) : List Byte :=
  a :: 0x02#8 :: BitVec.ofNat 8 (byteCount quantity) ::
    dataBytes (fun i => Table.get s.eng.di (start + i)) quantity

/-- The checks of R181 and R182 in order, then R183. The sum is exact (R198). -/
def readDiscreteInputs (a : Byte) (start quantity : Nat) (s : State) : Result :=
  if s.params.nInputs ≤ start then takeException a 0x02#8 .illegalDataAddress s
  else if s.params.nInputs < start + quantity then takeException a 0x02#8 .illegalDataValue s
  else commit (readInputsReply a start quantity s) s

/-- The first six request bytes, echoed (R190). -/
def writeCoilReply (a : Byte) (addr value : Word) : List Byte :=
  [a, 0x05#8, hiByte addr, loByte addr, hiByte value, loByte value]

/-- The checks of R188 and R189 in order, then R190. -/
def writeSingleCoil (a : Byte) (addr value : Word) (s : State) : Result :=
  if value ≠ 0x0000#16 ∧ value ≠ 0xFF00#16 then takeException a 0x05#8 .illegalDataValue s
  else if s.params.nCoils ≤ addr.toNat then takeException a 0x05#8 .illegalDataAddress s
  else commit (writeCoilReply a addr value) (s.setCoil (Table.set s.eng.coil addr.toNat (value == 0xFF00#16)))

/-- `RDI`: the length check of R180, then the fields (R179). -/
def execRdi (a : Byte) (body : RequestBody) (s : State) : Result :=
  match body with
  | .malformed _ => takeException a 0x02#8 .illegalDataValue s
  | .fields start quantity => readDiscreteInputs a start.toNat quantity.toNat s

/-- `WSC`: the length check of R187, then the fields (R186). -/
def execWsc (a : Byte) (body : RequestBody) (s : State) : Result :=
  match body with
  | .malformed _ => takeException a 0x05#8 .illegalDataValue s
  | .fields addr value => writeSingleCoil a addr value s

/-- `WSC.ON`: `WSC` with value 0xFF00 (R111). -/
def execWscOn (a : Byte) (addr : Word) (s : State) : Result := writeSingleCoil a addr 0xFF00#16 s

/-- `WSC.OFF`: `WSC` with value 0x0000 (R111). -/
def execWscOff (a : Byte) (addr : Word) (s : State) : Result := writeSingleCoil a addr 0x0000#16 s

/-- `ILLEGAL`: exception 0x01, whatever the payload, which is not parsed (R192). -/
def execIllegal (a f : Byte) (_payload : List Byte) (s : State) : Result := takeException a f .illegalFunction s

end Sys2Proof.Machine
end

