-- ==== Sys2Proof/Machine/Dispatch.lean ====
section
/-! DEFINITION. The dispatch of an instruction to its meaning, one arm per constructor of `Instr` (R177). -/

namespace Sys2Proof.Machine

def exec (i : Instr) (s : State) : Host.Outcome State Fault Refusal :=
  match i with
  | .rdi a body => Sys2Proof.Machine.execRdi a body s
  | .wsc a body => Sys2Proof.Machine.execWsc a body s
  | .wscOn a coil => Sys2Proof.Machine.execWscOn a coil s
  | .wscOff a coil => Sys2Proof.Machine.execWscOff a coil s
  | .illegal a f payload => Sys2Proof.Machine.execIllegal a f payload s
  | .rdiRsp a data => Sys2Proof.Machine.execRdiRsp a data s
  | .wscRsp a coil value => Sys2Proof.Machine.execWscRsp a coil value s
  | .exc a f code => Sys2Proof.Machine.execExc a f code s

end Sys2Proof.Machine
end

