-- ==== Sys2Proof/Machine/Emitter.lean ====
section
/-! DEFINITION. The response emitter, the arm of `Step` for phase EMISSION (R210 to R219). -/

namespace Sys2Proof.Machine

/-- E_ARM: with nothing to send the exchange is over (R211); else the CRC is appended and the line turned around (R212). -/
def emitArm (s : State) : Result :=
  if s.eng.txPending then
    match txFrame s with
    | .error f => .fault f
    | .ok reply =>
      match writeBytes .tx s.eng.txBuf s.eng.txLen (crcBytes reply) with
      | .error f => .fault f
      | .ok m =>
        .next ((((s.setTx m (s.eng.txLen + 2)).setLine true false).setTxIdx 0).setEmit .send)
  else .next (returnToIdle s)

/-- `send(v)`: the byte and the value of `de` join the observation (R214). -/
def send (v : Byte) (s : State) : State := s.addSent { byte := v, de := s.eng.de }

/-- E_SEND: one byte per `Step` in which the driver is ready; the index is compared after the increment (R213). -/
def emitSend (txReady : Bool) (s : State) : Result :=
  if txReady then
    match readCell .tx s.eng.txBuf s.eng.txLen s.eng.txIdx with
    | .error f => .fault f
    | .ok v =>
      if s.eng.txIdx + 1 = s.eng.txLen then .next (((send v s).setTxIdx (s.eng.txIdx + 1)).setEmit .flush)
      else .next ((send v s).setTxIdx (s.eng.txIdx + 1))
  else .next s

/-- The end of a transmission: receive mode, nothing pending, and the return to IDLE, in one event (R215). -/
def releaseLine (s : State) : State :=
  returnToIdle (((((s.setLine false true).setTxPending false).setTx s.eng.txBuf 0).setTxIdx 0).setEmit .arm)

/-- E_FLUSH: wait until the driver has sent everything (R215). -/
def emitFlush (txFlushed : Bool) (s : State) : State := if txFlushed then releaseLine s else s

/-- The emitter, by its sub-state (R210). -/
def emitter (txReady txFlushed : Bool) (s : State) : Result :=
  match s.eng.emit with
  | .arm => emitArm s
  | .send => emitSend txReady s
  | .flush => .next (emitFlush txFlushed s)

end Sys2Proof.Machine
end

