-- ==== Sys2Proof/Machine/HostPorts.lean ====
section
/-! DEFINITION. The host operations (R235 to R242) and the output ports (R230). The reads are functions of the state and change
nothing (R74). -/

namespace Sys2Proof.Machine

/-- `HostSetAddr(a)`: any value is stored (R235). -/
def hostSetAddr (a : Byte) (s : State) : State := s.setSlaveAddr a

/-- `HostSetInput(i, v)`; an index at or beyond the table is ignored (R236, R242). -/
def hostSetInput (i : Word) (v : Bool) (s : State) : State :=
  if i.toNat < s.params.nInputs then s.setDi (Table.set s.eng.di i.toNat v) else s

/-- `HostGetInput(i)` (R237, R242). -/
def hostGetInput (i : Word) (s : State) : Bool :=
  decide (i.toNat < s.params.nInputs) && Table.get s.eng.di i.toNat

/-- `HostSetCoil(i, v)`; an index at or beyond the table is ignored (R238, R242). -/
def hostSetCoil (i : Word) (v : Bool) (s : State) : State :=
  if i.toNat < s.params.nCoils then s.setCoil (Table.set s.eng.coil i.toNat v) else s

/-- `HostGetCoil(i)` (R239, R242). -/
def hostGetCoil (i : Word) (s : State) : Bool :=
  decide (i.toNat < s.params.nCoils) && Table.get s.eng.coil i.toNat

/-- `HostStats()`: the eight counters, all from the same instant (R240). -/
def hostStats (s : State) : Counters := s.eng.cnt

/-- The host writes of one clock cycle, in the order of the ports `addr_we`, `di_we`, `coil_we` (R241). -/
def hostWrites (p : PortsIn) (s : State) : State :=
  let s1 := if p.addrWe then hostSetAddr p.addrWdata s else s
  let s2 := if p.diWe then hostSetInput p.diWidx p.diWdata s1 else s1
  if p.coilWe then hostSetCoil p.coilWidx p.coilWdata s2 else s2

/-- The output ports while the inputs are `p`: all from the state before the edge (R230, R241). -/
def portsOut (p : PortsIn) (s : State) : PortsOut :=
  { rxEn := s.eng.rxEn
    txValid := s.eng.emit == .send
    txData :=
      if s.eng.emit = .send then (Memory.read s.eng.txBuf s.eng.txIdx).getD (Config.freeTxData s.env.tick)
      else Config.freeTxData s.env.tick
    de := s.eng.de
    addrQ := s.eng.slaveAddr
    diRdata := hostGetInput p.diRidx s
    coilRdata := hostGetCoil p.coilRidx s
    statQ := statWord (hostStats s)
    phaseQ := phaseCode s.eng.phase }

end Sys2Proof.Machine
end

