-- ==== Sys2Proof/Machine/Receiver.lean ====
section
/-! DEFINITION. The frame timing receiver: event `RxByte`, arm by arm (R133 to R141). Every arm is a fixed number of writes and never
waits (R152). -/

namespace Sys2Proof.Machine

/-- `absorb(d, err, t)`: store a byte, or count an overrun when the buffer is full (R136). -/
def absorb (d : Byte) (err : Bool) (t : Time) (s : State) : State :=
  let stored :=
    if s.eng.rxCount < Config.bufferCap then
      s.setRx (Memory.write s.eng.rxBuf s.eng.rxCount d) (s.eng.rxCount + 1)
    else inc .overrun (s.setIntegrity false)
  (lineError err stored).setLastTs t

/-- The start of a frame, in IDLE (R135). -/
def startFrame (d : Byte) (err : Bool) (t : Time) (s : State) : State :=
  absorb d err t (((s.setRx s.eng.rxBuf 0).setIntegrity true).setPhase .reception)

/-- `intrude(err, t)`: the byte is discarded, the frame is marked NOT-OK, and the silence starts anew (R138). -/
def intrude (t : Time) (s : State) : State := (s.setIntegrity false).setLastTs t

/-- `RxByte(d, perr, ferr, oerr, t)` with `err = perr | ferr | oerr`, while reception is enabled (R134 to R141). -/
def receiveByte (d : Byte) (err : Bool) (t : Time) (s : State) : State :=
  match s.eng.phase with
  | .init => lineError err s
  | .idle => startFrame d err t s
  | .reception => if charTimeout t s then intrude t (s.setPhase .waiting) else absorb d err t s
  | .waiting => intrude t s
  | .processingResponse => intrude t s
  | .processingNoResponse => intrude t s
  | .discard => intrude t s
  | .emission => if s.eng.txPending then lineError err s else startFrame d err t (s.setPhase .idle)

/-- `RxByte`: while `rx_en = 0` the byte is lost without trace (R133). -/
def rxByte (d : Byte) (perr ferr oerr : Bool) (t : Time) (s : State) : State :=
  if s.eng.rxEn then receiveByte d (perr || ferr || oerr) t s else s

end Sys2Proof.Machine
end

