-- ==== Sys2Proof/Machine/Validator.lean ====
section
/-! DEFINITION. The frame validator and address filter, the arm of `Step` for phase WAITING (R160 to R169). -/

namespace Sys2Proof.Machine

/-- The reject of R161, R162 and R163. -/
def rejectFrame (s : State) : State := (inc .busErr s).setPhase .discard

/-- The address filter: broadcast before own address before foreign (R165, R166, R167, R263). -/
def filterAddress (a : Byte) (s : State) : State :=
  if a = 0x00#8 then (inc .noResp s).setPhase .processingNoResponse
  else if a = s.eng.slaveAddr then (inc .slaveMsg s).setPhase .processingResponse
  else s.setPhase .discard

/-- The validator: integrity, length, CRC, then the count of good frames and the address filter (R160). -/
def validate (s : State) : Result :=
  if s.eng.integrityOk = false ∨ s.eng.rxCount ≤ 3 then .next (rejectFrame s)
  else
    match rxFrame s with
    | .error f => .fault f
    | .ok frame =>
      if crcMatches frame then .next (filterAddress (frame.getD 0 0) (inc .busMsg s))
      else .next (rejectFrame s)

end Sys2Proof.Machine
end

