-- ==== Sys2Proof/Machine/Cycle.lean ====
section
/-! DEFINITION. The two fetches of the model and what happens to them. The engine fetches its instruction, the request frame, from
the receive buffer in the PROCESSING phases (R147, R175, R177). The model fetches what happens next, an event or a clock edge,
from the inputs. -/

namespace Sys2Proof.Machine

/-- The fetch of an instruction: the received frame, decoded (R24, R104, R175). -/
def fetch (s : State) : Except Fault Instr :=
  match rxFrame s with
  | .error f => .error f
  | .ok frame =>
    match decodeRequest frame with
    | .ok i => .ok i
    | .error _ => .error .noFrame

/-- The dispatcher on a frame that is still good: fetch and execute (R177). -/
def dispatch (s : State) : Result :=
  match fetch s with
  | .error f => .fault f
  | .ok i => exec i s

/-- The abandonment of a request whose integrity flag was cleared after validation (R176). -/
def abandon (s : State) : State := rejectFrame s

/-- `Step` in a PROCESSING phase: nothing before the inter-frame silence has elapsed, then abandonment or dispatch (R147). -/
def stepProcessing (t : Time) (s : State) : Result :=
  if frameTimeout t s then
    if s.eng.integrityOk then dispatch s else .next (abandon s)
  else .next s

/-- `Step(t, tx_ready, tx_flushed)`: one arm by phase (R142 to R149). -/
def engineStep (t : Time) (txReady txFlushed : Bool) (s : State) : Result :=
  match s.eng.phase with
  | .init => .next (s.setPhase .idle)
  | .idle => .next s
  | .reception => .next (if charTimeout t s then s.setPhase .waiting else s)
  | .waiting => validate s
  | .processingResponse => stepProcessing t s
  | .processingNoResponse => stepProcessing t s
  | .discard => .next (if frameTimeout t s then s.setPhase .emission else s)
  | .emission => emitter txReady txFlushed s

/-- `Reset`: every piece of state takes its reset value (R290). -/
def resetEngine (s : State) : State := s.setEng (Engine.reset s.params)

/-- One event (R15). -/
def applyEvent : Event → State → Result
  | .reset, s => .next (resetEngine s)
  | .rxByte d perr ferr oerr t, s => .next (rxByte d perr ferr oerr t s)
  | .step t txReady txFlushed, s => engineStep t txReady txFlushed s
  | .hostSetAddr a, s => .next (hostSetAddr a s)
  | .hostSetInput i v, s => .next (hostSetInput i v s)
  | .hostGetInput _, s => .next s
  | .hostSetCoil i v, s => .next (hostSetCoil i v s)
  | .hostGetCoil _, s => .next s
  | .hostStats, s => .next s

/-- The engine event of a clock cycle without reset: a presented byte takes precedence over the processing step (R231, R262). -/
def cycleEvent (p : PortsIn) (rxEn : Bool) : Event :=
  if rxEn && p.rxValid then .rxByte p.rxData p.rxPerr p.rxFerr p.rxOerr p.nowUs
  else .step p.nowUs p.txReady p.txFlushed

/-- One rising clock edge: `Reset` alone, or the host writes and then one engine event; `rx_en` is the value before the edge
(R231, R241). -/
def clockEdge (p : PortsIn) (s : State) : Result :=
  if p.rst then applyEvent .reset s
  else applyEvent (cycleEvent p s.eng.rxEn) (hostWrites p s)

/-- One input. -/
def applyInput : Input → State → Result
  | .event e, s => applyEvent e s
  | .clock p, s => clockEdge p s

/-- The next input: the oldest scheduled one, or a free one when none is scheduled (log 2). -/
def nextInput (s : State) : Input :=
  match s.env.inputs with
  | i :: _ => i
  | [] => Config.freeInput s.env.tick

/-- The state with its next input taken. -/
def afterInput (s : State) : State := s.setInputs s.env.inputs.tail

/-- One transition of the model; a configuration outside its constraints is refused (R306, log 8). -/
def advance (s : State) : Result :=
  if s.params.ok then applyInput (nextInput s) (afterInput s) else .refused .badConfiguration

/-- A frame placed in the receive buffer as the receiver and the validator leave an accepted frame, and the `Step` that
dispatches it scheduled next, exactly `T35_US` after `last_ts` (R24, R147, R165, R166, log 3). -/
def withFrame (frame : List Byte) (s : State) : State :=
  { s with
    eng := { s.eng with
      rxBuf := match writeBytes .rx s.eng.rxBuf 0 frame with
        | .ok m => m
        | .error _ => s.eng.rxBuf
      rxCount := frame.length
      integrityOk := true
      phase := if frame.getD 0 0 = 0x00#8 then .processingNoResponse else .processingResponse }
    env := { s.env with
      inputs := .event (.step (s.eng.lastTs + s.params.t35) true true) :: s.env.inputs } }

end Sys2Proof.Machine
end

