-- ==== Sys2Proof/Machine/Step.lean ====
section
/-! DEFINITION. The step of the model: one event or one clock edge. -/

namespace Sys2Proof.Machine

/-- One step (R15, R231). -/
def step (s : State) : Host.Outcome State Fault Refusal := advance s

/-- The state in which the very next step fetches and runs the instruction of a word of the opcode table (log 3, log 13). -/
def State.withFetchWord (s : State) (nbits w : Nat) : State := withFrame (tableFrame nbits w) s

end Sys2Proof.Machine
end

