-- ==== Sys2Proof/Safety.lean ====
section
/-! DEFINITION. What counts as a good state (`Inv`), and the relations between two states in which the statements say what an event
changes and what it leaves alone. -/

namespace Sys2Proof.Safety

open Sys2Proof.Machine

/-- The invariants of R46, with those of R24 to R32, R39, R43, R93, R162, R163 and R196 that make them inductive. -/
structure Inv (s : State) : Prop where
  /-- The receive buffer is in canonical form. -/
  rxCanonical : Memory.wf s.eng.rxBuf = true
  /-- The transmit buffer is in canonical form. -/
  txCanonical : Memory.wf s.eng.txBuf = true
  /-- `rx_count <= 256` (R46). -/
  rxCountLe : s.eng.rxCount ≤ Config.bufferCap
  /-- The cells `0 .. rx_count-1` of `rx_buf` hold values (R24). -/
  rxStored : ∀ i < s.eng.rxCount, (Memory.read s.eng.rxBuf i).isSome = true
  /-- `tx_len <= 256` (R46). -/
  txLenLe : s.eng.txLen ≤ Config.bufferCap
  /-- The cells `0 .. tx_len-1` of `tx_buf` hold values (R27). -/
  txStored : ∀ i < s.eng.txLen, (Memory.read s.eng.txBuf i).isSome = true
  /-- `tx_idx <= tx_len` (R46). -/
  txIdxLe : s.eng.txIdx ≤ s.eng.txLen
  /-- `rx_en = 1 - de` (R32, R46). -/
  rxEnNotDe : s.eng.rxEn = !s.eng.de
  /-- `de` is 1 exactly while `emit` is E_SEND or E_FLUSH (R31). -/
  deIffSending : s.eng.de = (s.eng.emit != .arm)
  /-- `emit != E_ARM` implies `tx_pending = 1` (R46). -/
  sendingPending : s.eng.emit ≠ .arm → s.eng.txPending = true
  /-- `tx_pending = 1` implies `phase = EMISSION` (R46). -/
  pendingEmission : s.eng.txPending = true → s.eng.phase = .emission
  /-- Between replies `tx_len` is 0 (R219). -/
  noReplyNoLength : s.eng.txPending = false → s.eng.txLen = 0
  /-- `tx_idx` is 0 until the line is turned around (R212, R215). -/
  armIndexZero : s.eng.emit = .arm → s.eng.txIdx = 0
  /-- A committed reply has 3 to 253 bytes before its CRC (R196). -/
  replyLength : s.eng.txPending = true → s.eng.emit = .arm → 3 ≤ s.eng.txLen ∧ s.eng.txLen ≤ 253
  /-- In E_SEND a byte is left to send (R213). -/
  sendIndexLt : s.eng.emit = .send → s.eng.txIdx < s.eng.txLen
  /-- The buffer is CRC-terminated before any byte is sent (R46). -/
  crcTerminated : s.eng.emit ≠ .arm → ∀ frame, txFrame s = .ok frame → 5 ≤ frame.length ∧ crcMatches frame = true
  /-- A frame being processed has passed the length and CRC checks (R162, R163). -/
  validated : s.eng.phase = .processingResponse ∨ s.eng.phase = .processingNoResponse →
    4 ≤ s.eng.rxCount ∧ ∀ frame, rxFrame s = .ok frame → crcMatches frame = true
  /-- A request to be answered is no broadcast (R165, R166). -/
  unicastAddress : s.eng.phase = .processingResponse → Memory.read s.eng.rxBuf 0 ≠ some 0
  /-- A reply is never addressed to the broadcast address (R165, R194). -/
  replyAddress : s.eng.txPending = true → Memory.read s.eng.txBuf 0 ≠ some 0
  /-- The discrete-input table has its size, its unused bits read 0 (R39). -/
  diCanonical : Table.wf s.params.nInputs s.eng.di = true
  /-- The coil table has its size, its unused bits read 0 (R39). -/
  coilCanonical : Table.wf s.params.nCoils s.eng.coil = true
  /-- `NAK` never moves (R43). -/
  nakZero : s.eng.cnt.nak = 0
  /-- `BUSY` never moves (R43). -/
  busyZero : s.eng.cnt.busy = 0
  /-- Every byte was handed over with `de = 1` (R214). -/
  sentDriving : ∀ x ∈ s.env.sent, x.de = true

/-- `t` counts one event more than `s` in counter `k` alone (R45). -/
def CountsOne (k : CounterId) (s t : State) : Prop :=
  ∀ c, t.eng.cnt.get c = if c = k then satInc (s.eng.cnt.get c) else s.eng.cnt.get c

/-- What becomes of a reply without CRC (R178, R196). For a unicast request, in PROCESSING_RESPONSE, it fills the first cells of
the transmit buffer and is pending, and every cell beyond it reads as before; else the transmit side is untouched. -/
def CommitsReply (reply : List Byte) (s t : State) : Prop :=
  if s.eng.phase = .processingResponse then
    t.eng.txPending = true ∧ t.eng.txLen = reply.length ∧
    ∀ i, Memory.read t.eng.txBuf i = (reply[i]?).or (Memory.read s.eng.txBuf i)
  else t.eng.txPending = s.eng.txPending ∧ t.eng.txLen = s.eng.txLen ∧ t.eng.txBuf = s.eng.txBuf

/-- The frame of the dispatcher (R175): it ends in EMISSION, and beside the transmit buffer with its length and pending flag,
the coil table and the counters, everything is as before. -/
structure DispatchFrame (s t : State) : Prop where
  phase : t.eng.phase = .emission
  rxCount : t.eng.rxCount = s.eng.rxCount
  rxBuf : t.eng.rxBuf = s.eng.rxBuf
  lastTs : t.eng.lastTs = s.eng.lastTs
  integrityOk : t.eng.integrityOk = s.eng.integrityOk
  txIdx : t.eng.txIdx = s.eng.txIdx
  emit : t.eng.emit = s.eng.emit
  de : t.eng.de = s.eng.de
  rxEn : t.eng.rxEn = s.eng.rxEn
  slaveAddr : t.eng.slaveAddr = s.eng.slaveAddr
  di : t.eng.di = s.eng.di
  ireg : t.eng.ireg = s.eng.ireg
  hreg : t.eng.hreg = s.eng.hreg
  params : t.params = s.params
  env : t.env = s.env

/-- A request that ends in an exception (R194, R195, R265): the three-byte reply, one more in `EXC`, no table written. -/
structure TakesException (a f code : Byte) (s t : State) : Prop where
  reply : CommitsReply [a, f ||| 0x80#8, code] s t
  counts : CountsOne .exc s t
  coil : t.eng.coil = s.eng.coil
  frame : DispatchFrame s t

/-- A request or reply that ends without an exception: its reply, no counter, and the coil table as told. -/
structure Succeeds (reply : List Byte) (coil : List Word) (s t : State) : Prop where
  reply : CommitsReply reply s t
  cnt : t.eng.cnt = s.eng.cnt
  coil : t.eng.coil = coil
  frame : DispatchFrame s t

/-- Bit `k` of byte `j` of `data` is input `start + 8j + k`, and 0 at `quantity` and beyond (R101, R183). -/
def PacksInputs (di : List Word) (start quantity : Nat) (data : List Byte) : Prop :=
  data.length = (quantity + 7) / 8 ∧
  ∀ j b, data[j]? = some b → ∀ k < 8,
    b.getLsbD k = if 8 * j + k < quantity then Table.get di (start + (8 * j + k)) else false

/-- The rows of the table of R23: what must hold in `s`, and of the event, for `phase` to move as it does. -/
inductive PhaseEdge (s : State) : Event → Phase → Prop
  | reset : PhaseEdge s .reset .init
  | leaveInit (t r f) : s.eng.phase = .init → PhaseEdge s (.step t r f) .idle
  | frameStart (d p fe o t) : s.eng.phase = .idle → PhaseEdge s (.rxByte d p fe o t) .reception
  | silenceSeen (t r f) : s.eng.phase = .reception → s.params.t15.toNat ≤ (elapsed t s).toNat →
      PhaseEdge s (.step t r f) .waiting
  | lateByte (d p fe o t) : s.eng.phase = .reception → s.params.t15.toNat ≤ (elapsed t s).toNat →
      PhaseEdge s (.rxByte d p fe o t) .waiting
  | rejected (t r f) : s.eng.phase = .waiting →
      (s.eng.integrityOk = false ∨ s.eng.rxCount ≤ 3 ∨ ∃ frame, rxFrame s = .ok frame ∧
        (crcMatches frame = false ∨ (frame[0]? ≠ some 0 ∧ frame[0]? ≠ some s.eng.slaveAddr))) →
      PhaseEdge s (.step t r f) .discard
  | unicast (t r f frame) : s.eng.phase = .waiting → s.eng.integrityOk = true → 3 < s.eng.rxCount → rxFrame s = .ok frame →
      crcMatches frame = true → frame[0]? ≠ some 0 → frame[0]? = some s.eng.slaveAddr →
      PhaseEdge s (.step t r f) .processingResponse
  | broadcast (t r f frame) : s.eng.phase = .waiting → s.eng.integrityOk = true → 3 < s.eng.rxCount → rxFrame s = .ok frame →
      crcMatches frame = true → frame[0]? = some 0 → PhaseEdge s (.step t r f) .processingNoResponse
  | dispatched (t r f) : s.eng.phase = .processingResponse ∨ s.eng.phase = .processingNoResponse →
      s.params.t35.toNat ≤ (elapsed t s).toNat → s.eng.integrityOk = true → PhaseEdge s (.step t r f) .emission
  | abandoned (t r f) : s.eng.phase = .processingResponse ∨ s.eng.phase = .processingNoResponse →
      s.params.t35.toNat ≤ (elapsed t s).toNat → s.eng.integrityOk = false → PhaseEdge s (.step t r f) .discard
  | discardOver (t r f) : s.eng.phase = .discard → s.params.t35.toNat ≤ (elapsed t s).toNat →
      PhaseEdge s (.step t r f) .emission
  | nothingToSend (t r f) : s.eng.phase = .emission → s.eng.emit = .arm → s.eng.txPending = false →
      PhaseEdge s (.step t r f) .idle
  | flushed (t r) : s.eng.phase = .emission → s.eng.emit = .flush → PhaseEdge s (.step t r true) .idle
  | nextFrame (d p fe o t) : s.eng.phase = .emission → s.eng.txPending = false → PhaseEdge s (.rxByte d p fe o t) .reception

/-- A list of events, one after the other, up to the first that stops. -/
def applyAll : List Event → State → Result
  | [], s => .next s
  | e :: es, s =>
    match applyEvent e s with
    | .next u => applyAll es u
    | .fault f => .fault f
    | .refused r => .refused r

/-- The host operations that the write ports of a clock cycle stand for, in their order (R235, R236, R238, R241). -/
def portWrites (p : PortsIn) : List Event :=
  (if p.addrWe then [.hostSetAddr p.addrWdata] else []) ++
  (if p.diWe then [.hostSetInput p.diWidx p.diWdata] else []) ++
  (if p.coilWe then [.hostSetCoil p.coilWidx p.coilWdata] else [])

/-- The serial driver offers to take a byte with this input: `tx_ready = 1` (R142, R233). -/
def driverReady : Input → Bool
  | .event (.step _ txReady _) => txReady
  | .clock p => p.txReady
  | _ => false

/-- The input is a reset (R290). -/
def resets : Input → Bool
  | .event .reset => true
  | .clock p => p.rst
  | _ => false

/-- The input writes bit `i` of the coil table by the host operation `HostSetCoil` (R238, R241). -/
def hostWritesCoil (i : Nat) : Input → Bool
  | .event (.hostSetCoil j _) => j.toNat == i
  | .clock p => p.coilWe && p.coilWidx.toNat == i
  | _ => false

/-- The input writes bit `i` of the discrete-input table by the host operation `HostSetInput` (R236, R241). -/
def hostWritesInput (i : Nat) : Input → Bool
  | .event (.hostSetInput j _) => j.toNat == i
  | .clock p => p.diWe && p.diWidx.toNat == i
  | _ => false

/-- The input writes the device address by the host operation `HostSetAddr` (R235, R241). -/
def hostWritesAddr : Input → Bool
  | .event (.hostSetAddr _) => true
  | .clock p => p.addrWe
  | _ => false

/-- `Step` events at the given times with the driver ready and flushed. -/
def readySteps (times : List Time) : List Input := times.map fun t => .event (.step t true true)

/-- The observation of a frame sent while driving the line (R16 (a)). -/
def driven (frame : List Byte) : List Sent := frame.map fun b => { byte := b, de := true }

/-- Two states differ at most in cells of the receive buffer at or beyond `rx_count`, which hold stale or unspecified values
(R33). -/
structure SameButStale (s t : State) : Prop where
  params : s.params = t.params
  env : s.env = t.env
  eng : { s.eng with rxBuf := [] } = { t.eng with rxBuf := [] }
  valid : ∀ i < s.eng.rxCount, Memory.read s.eng.rxBuf i = Memory.read t.eng.rxBuf i

end Sys2Proof.Safety
end

