-- ==== Sys2Proof/Certificates/Slice0/Obligations.lean ====
section
/-! DEFINITION. The statements for the provers. Each docstring names the rules of `spec/` it formalises, or what it derives from. -/

open Sys2Proof Sys2Proof.Machine Sys2Proof.Safety

/-! ### Encoding and checksum -/

/-- The frame of every well-formed instruction, read in its own direction, decodes to that instruction; `WSC.ON` and `WSC.OFF` decode
to the `WSC` they expand to (R111, log 12). Derived from R94 to R98, R105, R109. -/
def Obligations.DecodeUndoesEncode : Prop :=
  ∀ i : Instr, i.wf = true → decode i.direction (encode i) = .ok i.core

/-- Whatever decodes, in either direction, and carries its own CRC is the encoding of what it decodes to: no byte of a frame is
dropped. Derived from R94 to R98, R102, R105. -/
def Obligations.EncodeUndoesDecode : Prop :=
  ∀ (d : Direction) (frame : List Byte) (i : Instr),
    decode d frame = .ok i → crcMatches frame = true → encode i = frame

/-- A received frame decodes exactly when it has 4 to 256 bytes (R93), the function byte selects the form (R103), and a 0x02 or 0x05
frame has parsed fields exactly when it has 8 bytes (R109). Derived. -/
def Obligations.FunctionByteSelectsForm : Prop :=
  (∀ frame : List Byte, (∃ i, decodeRequest frame = .ok i) ↔ 4 ≤ frame.length ∧ frame.length ≤ 256) ∧
  ∀ (a f : Byte) (rest : List Byte), 2 ≤ rest.length → rest.length ≤ 254 →
    (f = 0x02#8 → ∃ body, decodeRequest (a :: f :: rest) = .ok (.rdi a body) ∧
      ((∃ x y, body = .fields x y) ↔ rest.length = 6)) ∧
    (f = 0x05#8 → ∃ body, decodeRequest (a :: f :: rest) = .ok (.wsc a body) ∧
      ((∃ x y, body = .fields x y) ↔ rest.length = 6)) ∧
    (f ≠ 0x02#8 → f ≠ 0x05#8 →
      decodeRequest (a :: f :: rest) = .ok (.illegal a f (rest.take (rest.length - 2))))

/-- Frames written out in the spec decode to what the spec says they are (R111, S6, V74, V114, P2, R98). Derived: a sanity check. -/
def Obligations.SpecFramesDecode : Prop :=
  decodeRequest [0x11, 0x02, 0x00, 0x00, 0x00, 0x02, 0xFB, 0x5B] = .ok (.rdi 0x11 (.fields 0 2)) ∧
  decodeRequest [0x11, 0x02, 0x00, 0x00, 0xA4, 0xD8] = .ok (.rdi 0x11 (.malformed [0x00, 0x00])) ∧
  decodeRequest [0x11, 0x05, 0x00, 0x01, 0xFF, 0x00, 0xDF, 0x6A] = .ok (.wsc 0x11 (.fields 1 0xFF00)) ∧
  decodeRequest [0x11, 0x07, 0x4C, 0x22] = .ok (.illegal 0x11 0x07 []) ∧
  encode (.wscOn 0x11 1) = [0x11, 0x05, 0x00, 0x01, 0xFF, 0x00, 0xDF, 0x6A] ∧
  encode (.wscOff 0x11 4) = [0x11, 0x05, 0x00, 0x04, 0x00, 0x00, 0x8E, 0x9B] ∧
  decodeReply [0x11, 0x02, 0x01, 0x01, 0x64, 0x88] = .ok (.rdiRsp 0x11 [0x01]) ∧
  decodeReply [0x11, 0x05, 0x00, 0x01, 0xFF, 0x00, 0xDF, 0x6A] = .ok (.wscRsp 0x11 1 0xFF00) ∧
  decodeReply [0x11, 0x85, 0x03, 0x03, 0x54] = .ok (.exc 0x11 5 .illegalDataValue)

/-- The checksum is seeded with all-ones and updated by the two tables, and is returned with the high
accumulator on top. Derived from R121 (that order is the spec's own reading; the tables' contents are R122, log 19). -/
def Obligations.CrcUpdatesByTwoTables : Prop :=
  crc16 [] = 0xFFFF#16 ∧
  ∀ (bytes : List Byte) (b : Byte),
    hiByte (crc16 (bytes ++ [b])) = tableLow (loByte (crc16 bytes) ^^^ b) ∧
    loByte (crc16 (bytes ++ [b])) = hiByte (crc16 bytes) ^^^ tableHigh (loByte (crc16 bytes) ^^^ b)

/-- The table form and the bit-serial form are the same function. Derived (R127 is the spec's own inference). -/
def Obligations.TableCrcIsBitSerialCrc : Prop := ∀ bytes : List Byte, crc16 bytes = crc16Serial bytes

/-- A sequence followed by its CRC has the checksum 0 and passes the validator's comparison. Derived (the residue form of R125 is the
spec's own inference). -/
def Obligations.CrcResidueIsZero : Prop :=
  ∀ bytes : List Byte,
    crc16 (bytes ++ [loByte (crc16 bytes), hiByte (crc16 bytes)]) = 0 ∧
    crcMatches (bytes ++ [loByte (crc16 bytes), hiByte (crc16 bytes)]) = true

/-! ### The receiver -/

/-- While `rx_en = 0` a byte changes nothing (R133). -/
def Obligations.MaskedByteIsLost : Prop :=
  ∀ (s : State) (d : Byte) (perr ferr oerr : Bool) (t : Time), s.eng.rxEn = false →
    applyEvent (.rxByte d perr ferr oerr t) s = .next s

/-- A byte in IDLE starts a frame, whatever the time and the stale timestamp: it becomes cell 0, the only valid one, the flag is
reset and cleared again by a line error, and nothing else changes (R135). -/
def Obligations.ByteInIdleStartsFrame : Prop :=
  ∀ (s : State) (d : Byte) (perr ferr oerr : Bool) (t : Time), s.eng.rxEn = true → s.eng.phase = .idle →
    ∃ u, applyEvent (.rxByte d perr ferr oerr t) s = .next u ∧
      (∀ i, Memory.read u.eng.rxBuf i = if i = 0 then some d else Memory.read s.eng.rxBuf i) ∧
      u = { s with eng := { s.eng with
              phase := .reception, rxCount := 1, rxBuf := u.eng.rxBuf, lastTs := t,
              integrityOk := !(perr || ferr || oerr) } }

/-- A byte in RECEPTION before the inter-character silence is stored at index `rx_count`, or, with the buffer full, discarded with
the flag cleared and one overrun counted; the timestamp moves either way, and nothing else changes. Derived from R136, R137, R141
and the spec's decisions D10, D11, D12. -/
def Obligations.ReceptionAbsorbsByte : Prop :=
  ∀ (s : State) (d : Byte) (perr ferr oerr : Bool) (t : Time), s.eng.rxEn = true → s.eng.phase = .reception →
    (t - s.eng.lastTs).toNat < s.params.t15.toNat →
    ∃ u, applyEvent (.rxByte d perr ferr oerr t) s = .next u ∧
      (s.eng.rxCount < 256 →
        (∀ i, Memory.read u.eng.rxBuf i = if i = s.eng.rxCount then some d else Memory.read s.eng.rxBuf i) ∧
        u = { s with eng := { s.eng with
                rxCount := s.eng.rxCount + 1, rxBuf := u.eng.rxBuf, lastTs := t,
                integrityOk := s.eng.integrityOk && !(perr || ferr || oerr) } }) ∧
      (256 ≤ s.eng.rxCount → CountsOne .overrun s u ∧
        u = { s with eng := { s.eng with lastTs := t, integrityOk := false, cnt := u.eng.cnt } })

/-- A byte that comes after the inter-character silence in RECEPTION, or at all in WAITING, a PROCESSING phase or DISCARD, is not
stored: it clears the flag, restarts the silence, and in RECEPTION ends the frame. Derived from R137, R138 and the spec's
decisions D9, D10, D31. -/
def Obligations.IntrudingByteMarksFrame : Prop :=
  ∀ (s : State) (d : Byte) (perr ferr oerr : Bool) (t : Time), s.eng.rxEn = true →
    (s.eng.phase = .reception → s.params.t15.toNat ≤ (t - s.eng.lastTs).toNat →
      applyEvent (.rxByte d perr ferr oerr t) s =
        .next { s with eng := { s.eng with phase := .waiting, integrityOk := false, lastTs := t } }) ∧
    (s.eng.phase = .waiting ∨ s.eng.phase = .processingResponse ∨ s.eng.phase = .processingNoResponse ∨
        s.eng.phase = .discard →
      applyEvent (.rxByte d perr ferr oerr t) s =
        .next { s with eng := { s.eng with integrityOk := false, lastTs := t } })

/-- A byte in INIT, or in EMISSION with a reply pending and the line not yet turned, is dropped but for a line error; in EMISSION
with nothing to send it starts a frame as in IDLE. Derived from R134, R139, R140 and the spec's decisions D8, D15. -/
def Obligations.ByteOutsideTheFrame : Prop :=
  ∀ (s : State) (d : Byte) (perr ferr oerr : Bool) (t : Time), s.eng.rxEn = true →
    (s.eng.phase = .init ∨ (s.eng.phase = .emission ∧ s.eng.txPending = true) →
      applyEvent (.rxByte d perr ferr oerr t) s =
        .next { s with eng := { s.eng with integrityOk := s.eng.integrityOk && !(perr || ferr || oerr) } }) ∧
    (s.eng.phase = .emission → s.eng.txPending = false →
      applyEvent (.rxByte d perr ferr oerr t) s =
        applyEvent (.rxByte d perr ferr oerr t) { s with eng := { s.eng with phase := .idle } })

/-- A line error on any received byte, whichever of the three, clears the flag, in every phase, and does nothing else: the outcome is
that of the same byte without an error but for the flag (R141). -/
def Obligations.LineErrorClearsIntegrity : Prop :=
  ∀ (s : State) (d : Byte) (perr ferr oerr : Bool) (t : Time), s.eng.rxEn = true →
    (perr = true ∨ ferr = true ∨ oerr = true) →
    ∃ v, applyEvent (.rxByte d false false false t) s = .next v ∧
      applyEvent (.rxByte d perr ferr oerr t) s = .next { v with eng := { v.eng with integrityOk := false } }

/-- The elapsed time is the true interval modulo `2^32`: the interval itself when it is shorter than that, and never longer than it.
Derived from R131, R234, R301. -/
def Obligations.ElapsedIsTrueInterval : Prop :=
  ∀ (s : State) (start interval : Nat), s.eng.lastTs = BitVec.ofNat 32 start →
    (interval < 2 ^ 32 → (elapsed (BitVec.ofNat 32 (start + interval)) s).toNat = interval) ∧
    (elapsed (BitVec.ofNat 32 (start + interval)) s).toNat ≤ interval

/-- A `Step` in IDLE has no effect, whatever the time, and only a byte (or a reset) leaves IDLE (R144); in RECEPTION it moves to WAITING once the inter-character silence has
elapsed, and writes nothing else (R145). -/
def Obligations.StepInIdleAndReception : Prop :=
  ∀ (s : State) (t : Time) (r f : Bool),
    (s.eng.phase = .idle → applyEvent (.step t r f) s = .next s ∧
      ∀ e u, applyEvent e s = .next u → u.eng.phase ≠ .idle → e = .reset ∨ ∃ d p fe o t', e = .rxByte d p fe o t') ∧
    (s.eng.phase = .reception → applyEvent (.step t r f) s =
      .next (if s.params.t15.toNat ≤ (t - s.eng.lastTs).toNat
        then { s with eng := { s.eng with phase := .waiting } } else s))

/-- The first `Step` moves INIT to IDLE; DISCARD moves to EMISSION once the inter-frame silence has elapsed; nothing else is
written. Derived from R143, R148 and the spec's decisions D8, D14. -/
def Obligations.InitAndDiscardSteps : Prop :=
  ∀ (s : State) (t : Time) (r f : Bool),
    (s.eng.phase = .init → applyEvent (.step t r f) s = .next { s with eng := { s.eng with phase := .idle } }) ∧
    (s.eng.phase = .discard → applyEvent (.step t r f) s =
      .next (if s.params.t35.toNat ≤ (t - s.eng.lastTs).toNat
        then { s with eng := { s.eng with phase := .emission } } else s))

/-! ### The validator -/

/-- A frame with the flag NOT-OK, of at most 3 bytes, or with a received CRC other than the checksum of all preceding bytes is
discarded and counted once in `BUS_ERR`; nothing else changes (R161, R162, R163). -/
def Obligations.BadFrameIsDiscarded : Prop :=
  ∀ (s : State) (t : Time) (r f : Bool), s.eng.phase = .waiting →
    (s.eng.integrityOk = false ∨ s.eng.rxCount ≤ 3 ∨
      ∃ frame, rxFrame s = .ok frame ∧
        (crc16 (frame.take (frame.length - 2))).toNat ≠
          (frame.getD (frame.length - 2) 0).toNat + 256 * (frame.getD (frame.length - 1) 0).toNat) →
    ∃ u, applyEvent (.step t r f) s = .next u ∧ CountsOne .busErr s u ∧
      u = { s with eng := { s.eng with phase := .discard, cnt := u.eng.cnt } }

/-- A frame that passes the three checks is counted in `BUS_MSG` and filtered by its address byte: 0 is a broadcast, this node's
address a unicast, any other is discarded without a further count; nothing else changes, the time is not looked at (R164, R167; the
unicast clause is R166, the broadcast clause R165, which for a node whose own address is 0 is the spec's decision D17). -/
def Obligations.GoodFrameIsFilteredByAddress : Prop :=
  ∀ (s : State) (t : Time) (r f : Bool) (frame : List Byte), s.eng.phase = .waiting → s.eng.integrityOk = true →
    3 < s.eng.rxCount → rxFrame s = .ok frame →
    (crc16 (frame.take (frame.length - 2))).toNat =
      (frame.getD (frame.length - 2) 0).toNat + 256 * (frame.getD (frame.length - 1) 0).toNat →
    ∃ u, applyEvent (.step t r f) s = .next u ∧
      u = { s with eng := { s.eng with phase := u.eng.phase, cnt := u.eng.cnt } } ∧
      (frame[0]? = some 0 → u.eng.phase = .processingNoResponse ∧ ∀ k, u.eng.cnt.get k =
        if k = .busMsg ∨ k = .noResp then satInc (s.eng.cnt.get k) else s.eng.cnt.get k) ∧
      (frame[0]? ≠ some 0 → frame[0]? = some s.eng.slaveAddr →
        u.eng.phase = .processingResponse ∧ ∀ k, u.eng.cnt.get k =
          if k = .busMsg ∨ k = .slaveMsg then satInc (s.eng.cnt.get k) else s.eng.cnt.get k) ∧
      (frame[0]? ≠ some 0 → frame[0]? ≠ some s.eng.slaveAddr →
        u.eng.phase = .discard ∧ CountsOne .busMsg s u)

/-- After a good foreign frame three steps, the second past the inter-frame silence, lead back to IDLE: no byte is sent, no coil
changes, only `BUS_MSG` counts. Derived from R167, R148, R211 (the property S2 of 95_test_vectors.md). -/
def Obligations.ForeignFrameIsDropped : Prop :=
  ∀ (s : State) (t1 t2 t3 : Time) (r1 r2 r3 f1 f2 f3 : Bool) (rest : List Input) (frame : List Byte),
    s.params.ok = true → s.eng.phase = .waiting → s.eng.integrityOk = true → 3 < s.eng.rxCount →
    rxFrame s = .ok frame → crcMatches frame = true →
    frame[0]? ≠ some 0 → frame[0]? ≠ some s.eng.slaveAddr →
    s.eng.txPending = false → s.eng.emit = .arm →
    s.params.t35.toNat ≤ (t2 - s.eng.lastTs).toNat →
    s.env.inputs = .event (.step t1 r1 f1) :: .event (.step t2 r2 f2) :: .event (.step t3 r3 f3) :: rest →
    ∃ u, core.run 3 s = .next u ∧ CountsOne .busMsg s u ∧
      u = { s with
            eng := { s.eng with phase := .idle, cnt := u.eng.cnt }
            env := { s.env with inputs := rest, tick := s.env.tick + 3 } }

/-! ### The dispatcher: when it runs and what it runs -/

/-- In a PROCESSING phase a `Step` has no effect before the inter-frame silence has elapsed; then it abandons a request whose flag was
cleared, and runs the request otherwise. Derived from R147, R176 and the spec's decision D13. -/
def Obligations.ProcessingWaitsForSilence : Prop :=
  ∀ (s : State) (t : Time) (r f : Bool), s.eng.phase = .processingResponse ∨ s.eng.phase = .processingNoResponse →
    ((t - s.eng.lastTs).toNat < s.params.t35.toNat → applyEvent (.step t r f) s = .next s) ∧
    (s.params.t35.toNat ≤ (t - s.eng.lastTs).toNat → s.eng.integrityOk = false →
      ∃ u, applyEvent (.step t r f) s = .next u ∧ CountsOne .busErr s u ∧
        u = { s with eng := { s.eng with phase := .discard, cnt := u.eng.cnt } }) ∧
    (s.params.t35.toNat ≤ (t - s.eng.lastTs).toNat → s.eng.integrityOk = true →
      ∀ frame i, rxFrame s = .ok frame → decodeRequest frame = .ok i → applyEvent (.step t r f) s = exec i s)

/-- One step of the model takes the oldest scheduled input, or a free one when none is scheduled (the model's choice, log 2), and
applies it. Derived from R15, R231. -/
def Obligations.StepTakesNextInput : Prop :=
  ∀ s : State, s.params.ok = true →
    (∀ i rest, s.env.inputs = i :: rest →
      step s = applyInput i { s with env := { s.env with inputs := rest, tick := s.env.tick + 1 } }) ∧
    (s.env.inputs = [] →
      step s = applyInput (Config.freeInput s.env.tick) { s with env := { s.env with tick := s.env.tick + 1 } })

/-- A step runs the decoded instruction: with a `Step` event next, in a PROCESSING phase, past the inter-frame silence and with the
flag OK, a step is `exec` of the instruction that the received frame decodes to. Derived from R104, R147, R175, R177. -/
def Obligations.StepRunsDecodedRequest : Prop :=
  ∀ (s : State) (t : Time) (r f : Bool) (rest : List Input) (frame : List Byte) (i : Instr), s.params.ok = true →
    s.env.inputs = .event (.step t r f) :: rest →
    s.eng.phase = .processingResponse ∨ s.eng.phase = .processingNoResponse →
    s.params.t35.toNat ≤ (t - s.eng.lastTs).toNat → s.eng.integrityOk = true →
    rxFrame s = .ok frame → decodeRequest frame = .ok i →
    step s = exec i { s with env := { s.env with inputs := rest, tick := s.env.tick + 1 } }

/-! ### The dispatcher: the instructions -/

/-- `RDI` with the whole run inside the table succeeds: byte count `ceil(quantity/8)`, the requested bits packed least significant
first, the unused high bits 0, no table and no counter written (R183). -/
def Obligations.ReadInputsAnswersPackedBits : Prop :=
  ∀ (s : State) (a : Byte) (start quantity : Word), s.params.ok = true →
    start.toNat < s.params.nInputs → start.toNat + quantity.toNat ≤ s.params.nInputs →
    ∃ t data, exec (.rdi a (.fields start quantity)) s = .next t ∧
      PacksInputs s.eng.di start.toNat quantity.toNat data ∧ data.length ≤ 250 ∧
      Succeeds (a :: 0x02#8 :: BitVec.ofNat 8 data.length :: data) s.eng.coil s t

/-- `RDI` whose run of bits reaches past the end of the table is answered with illegal data value, the sum taken without wrap
(R182). -/
def Obligations.ReadInputsPastEndIsIllegalData : Prop :=
  ∀ (s : State) (a : Byte) (start quantity : Word),
    start.toNat < s.params.nInputs → s.params.nInputs < start.toNat + quantity.toNat →
    ∃ t, exec (.rdi a (.fields start quantity)) s = .next t ∧ TakesException a 0x02 0x03 s t

/-- The checks whose code or order the spec decides: a wrong length is illegal data value for both functions; an `RDI` start at or
beyond the table is illegal data address whatever the quantity; a `WSC` value other than 0x0000 and 0xFF00 is illegal data value
whatever the address. Derived from R180, R181, R187, R188 (the spec's decisions D18, D19, D20). -/
def Obligations.DecidedRequestErrors : Prop :=
  ∀ (s : State) (a : Byte),
    (∀ payload, ∃ t, exec (.rdi a (.malformed payload)) s = .next t ∧ TakesException a 0x02 0x03 s t) ∧
    (∀ start quantity : Word, s.params.nInputs ≤ start.toNat →
      ∃ t, exec (.rdi a (.fields start quantity)) s = .next t ∧ TakesException a 0x02 0x02 s t) ∧
    (∀ payload, ∃ t, exec (.wsc a (.malformed payload)) s = .next t ∧ TakesException a 0x05 0x03 s t) ∧
    (∀ addr value : Word, value ≠ 0x0000#16 → value ≠ 0xFF00#16 →
      ∃ t, exec (.wsc a (.fields addr value)) s = .next t ∧ TakesException a 0x05 0x03 s t)

/-- `WSC`, and its two pseudo-forms, with a legal value and an address inside the table succeeds: the coil takes the level, every
other coil keeps its own, the first six request bytes are echoed, no counter is written (R190). -/
def Obligations.WriteCoilSetsLevelAndEchoes : Prop :=
  ∀ (s : State) (a a1 a0 v1 v0 : Byte) (i : Instr), Table.wf s.params.nCoils s.eng.coil = true →
    be16 v1 v0 = 0x0000#16 ∨ be16 v1 v0 = 0xFF00#16 → (be16 a1 a0).toNat < s.params.nCoils →
    (i = .wsc a (.fields (be16 a1 a0) (be16 v1 v0)) ∨
      (i = .wscOn a (be16 a1 a0) ∧ be16 v1 v0 = 0xFF00#16) ∨ (i = .wscOff a (be16 a1 a0) ∧ be16 v1 v0 = 0x0000#16)) →
    ∃ t, exec i s = .next t ∧ Succeeds [a, 0x05, a1, a0, v1, v0] t.eng.coil s t ∧
      ∀ j, Table.get t.eng.coil j =
        if j = (be16 a1 a0).toNat then decide (be16 v1 v0 = 0xFF00#16) else Table.get s.eng.coil j

/-- `WSC`, and its two pseudo-forms, with a legal value and an address at or beyond the table is answered with illegal data address
(R189). -/
def Obligations.WriteCoilBadAddressIsIllegalAddress : Prop :=
  ∀ (s : State) (a : Byte) (addr value : Word) (i : Instr),
    value = 0x0000#16 ∨ value = 0xFF00#16 → s.params.nCoils ≤ addr.toNat →
    (i = .wsc a (.fields addr value) ∨ (i = .wscOn a addr ∧ value = 0xFF00#16) ∨ (i = .wscOff a addr ∧ value = 0x0000#16)) →
    ∃ t, exec i s = .next t ∧ TakesException a 0x05 0x02 s t

/-- Any other function code is answered with illegal function, whatever the payload (R192), by the three-byte exception reply
(R194). -/
def Obligations.OtherFunctionIsIllegal : Prop :=
  ∀ (s : State) (a f : Byte) (payload : List Byte),
    ∃ t, exec (.illegal a f payload) s = .next t ∧ TakesException a f 0x01 s t

/-- A reply form runs by being committed: a Read Discrete Inputs reply and a Write Single Coil reply succeed with their bytes, an
exception reply is an exception taken. Derived from R96, R97, R98, R196 (what a reply form means as an instruction is the model's
choice, log 11). -/
def Obligations.ReplyFormsAreCommitted : Prop :=
  ∀ (s : State) (a : Byte),
    (∀ data : List Byte, data.length ≤ 250 → ∃ t, exec (.rdiRsp a data) s = .next t ∧
      Succeeds (a :: 0x02#8 :: BitVec.ofNat 8 data.length :: data) s.eng.coil s t) ∧
    (∀ c1 c0 v1 v0 : Byte, ∃ t, exec (.wscRsp a (be16 c1 c0) (be16 v1 v0)) s = .next t ∧
      Succeeds [a, 0x05, c1, c0, v1, v0] s.eng.coil s t) ∧
    (∀ (f : Byte) (code : ExcCode), ∃ t, exec (.exc a (f.setWidth 7) code) s = .next t ∧
      TakesException a f (excByte code) s t)

/-- Every request runs exactly as one of the reply forms does: as an `RDI.RSP` of at most 250 data bytes, as a `WSC.RSP` on the coil
table with its coil written, or as an `EXC`. Derived from R177, R183, R190, R194 (log 11). -/
def Obligations.RequestRunsAsItsReply : Prop :=
  ∀ (s : State) (i : Instr), s.params.ok = true → i.direction = .request →
    (∃ data, data.length ≤ 250 ∧ exec i s = exec (.rdiRsp i.address data) s) ∨
    (∃ c v, c.toNat < s.params.nCoils ∧ exec i s = exec (.wscRsp i.address c v)
      { s with eng := { s.eng with coil := Table.set s.eng.coil c.toNat (decide (v = 0xFF00#16)) } }) ∨
    (∃ f code, exec i s = exec (.exc i.address f code) s)

/-- What no instruction touches: everything but the transmit buffer with its length and flag, the coil table, the counter `EXC` and
the phase is as before; a coil other than the one a Write Single Coil form names keeps its level; the transmit cells beyond the
reply read as before; and an instruction counted as an exception has written no coil. Derived: for the five request forms from R35, R175, R194, R197, R266;
for `RDI.RSP`, `WSC.RSP` and `EXC`, whose meaning as instructions is the model's choice (log 11), and in phases other than the two
PROCESSING phases, in which `exec` stands alone by the model's choice (log 25), from the model. -/
def Obligations.InstructionFrame : Prop :=
  ∀ (s t : State) (i : Instr), Table.wf s.params.nCoils s.eng.coil = true → exec i s = .next t →
    DispatchFrame s t ∧
    (t.eng.cnt = s.eng.cnt ∨ (CountsOne .exc s t ∧ t.eng.coil = s.eng.coil)) ∧
    (∀ j, (∀ a c v, i = .wsc a (.fields c v) → c.toNat ≠ j) → (∀ a c, i = .wscOn a c → c.toNat ≠ j) →
      (∀ a c, i = .wscOff a c → c.toNat ≠ j) → Table.get t.eng.coil j = Table.get s.eng.coil j) ∧
    (∀ k, t.eng.txLen ≤ k ∨ s.eng.phase ≠ .processingResponse →
      Memory.read t.eng.txBuf k = Memory.read s.eng.txBuf k)

/-- Every well-formed instruction completes, in every state with a legal configuration. Derived: for the five request forms in the two
PROCESSING phases from R18, R175, R177, R196, R269; that the three reply forms are instructions which complete is the model's choice
(log 11), and so is completion in any other phase, where no rule runs the dispatcher (log 25). -/
def Obligations.EveryInstructionCompletes : Prop :=
  ∀ (s : State) (i : Instr), s.params.ok = true → i.wf = true → ∃ t, exec i s = .next t

/-! ### The emitter -/

/-- The two ends of an exchange. E_ARM with nothing pending: the phase becomes IDLE and nothing else changes (R211). E_FLUSH: once the
driver has sent everything, the line is released, the reply forgotten and the phase IDLE, in one event; until then nothing
happens (R215). -/
def Obligations.ExchangeEndsInIdle : Prop :=
  ∀ (s : State) (t : Time) (r f : Bool), s.eng.phase = .emission →
    (s.eng.emit = .arm → s.eng.txPending = false →
      applyEvent (.step t r f) s = .next { s with eng := { s.eng with phase := .idle } }) ∧
    (s.eng.emit = .flush → f = false → applyEvent (.step t r f) s = .next s) ∧
    (s.eng.emit = .flush → f = true → applyEvent (.step t r f) s = .next { s with eng := { s.eng with
      de := false, rxEn := true, txPending := false, txLen := 0, txIdx := 0, emit := .arm, phase := .idle } })

/-- E_ARM with a reply pending: the CRC of the reply is appended low byte first, the line is turned around, no byte is sent, and
nothing else changes. Derived from R212 and the spec's decision D32. -/
def Obligations.ArmAppendsCrcAndTurnsLine : Prop :=
  ∀ (s : State) (t : Time) (r f : Bool) (reply : List Byte), s.eng.phase = .emission → s.eng.emit = .arm →
    s.eng.txPending = true → txFrame s = .ok reply → s.eng.txLen ≤ 254 →
    ∃ u, applyEvent (.step t r f) s = .next u ∧
      (∀ i, Memory.read u.eng.txBuf i =
        if i = s.eng.txLen then some (loByte (crc16 reply))
        else if i = s.eng.txLen + 1 then some (hiByte (crc16 reply)) else Memory.read s.eng.txBuf i) ∧
      u = { s with eng := { s.eng with
              txBuf := u.eng.txBuf, txLen := s.eng.txLen + 2, rxEn := false, de := true, txIdx := 0, emit := .send } }

/-- E_SEND: with the driver ready the byte at `tx_idx` is sent with the current `de` and the index moves on, to E_FLUSH when it
reaches `tx_len`; with the driver not ready nothing happens. Derived from R213, R214. -/
def Obligations.SendHandsOverOneByte : Prop :=
  ∀ (s : State) (t : Time) (f : Bool), s.eng.phase = .emission → s.eng.emit = .send →
    applyEvent (.step t false f) s = .next s ∧
    ∀ v, s.eng.txIdx < s.eng.txLen → Memory.read s.eng.txBuf s.eng.txIdx = some v →
      applyEvent (.step t true f) s =
        .next { s with
          eng := { s.eng with
            txIdx := s.eng.txIdx + 1
            emit := if s.eng.txIdx + 1 = s.eng.txLen then .flush else .send }
          env := { s.env with sent := s.env.sent ++ [{ byte := v, de := s.eng.de }] } }

/-- A pending reply is sent whole: with the driver ready and flushed, `n + 4` steps send its `n` bytes and their CRC, all with
`de = 1`, and return to IDLE in receive mode with nothing else changed. Derived from R212, R213, R214, R215, R216. -/
def Obligations.EmissionSendsWholeFrame : Prop :=
  ∀ (s : State) (reply : List Byte) (times : List Time) (rest : List Input), s.params.ok = true →
    s.eng.phase = .emission → s.eng.emit = .arm → s.eng.txPending = true → txFrame s = .ok reply → reply.length ≤ 254 →
    times.length = reply.length + 4 → s.env.inputs = readySteps times ++ rest →
    ∃ u, core.run (reply.length + 4) s = .next u ∧
      u.env.sent = s.env.sent ++ driven (reply ++ [loByte (crc16 reply), hiByte (crc16 reply)]) ∧
      u.env.inputs = rest ∧ u.params = s.params ∧
      u.eng = { s.eng with
        phase := .idle, de := false, rxEn := true, txPending := false, txLen := 0, txIdx := 0, emit := .arm,
        txBuf := u.eng.txBuf }

/-- A whole exchange: a good unicast Write Single Coil leaves the coil at the level asked for, and the reply sent, with `de = 1`,
equals the request byte for byte. Derived from R97, R190, R212 to R215 (the property S3 of 95_test_vectors.md). -/
def Obligations.WriteCoilExchangeEchoesRequest : Prop :=
  ∀ (s : State) (frame : List Byte) (a : Byte) (addr value : Word) (t : Time) (times : List Time) (rest : List Input),
    s.params.ok = true → Table.wf s.params.nCoils s.eng.coil = true →
    s.eng.phase = .processingResponse → s.eng.integrityOk = true → s.eng.emit = .arm →
    rxFrame s = .ok frame → crcMatches frame = true → decodeRequest frame = .ok (.wsc a (.fields addr value)) →
    value = 0x0000#16 ∨ value = 0xFF00#16 → addr.toNat < s.params.nCoils →
    s.params.t35.toNat ≤ (t - s.eng.lastTs).toNat →
    times.length = 10 → s.env.inputs = readySteps (t :: times) ++ rest →
    ∃ u, core.run 11 s = .next u ∧ u.env.sent = s.env.sent ++ driven frame ∧ u.eng.phase = .idle ∧ u.eng.de = false ∧
      ∀ j, Table.get u.eng.coil j = if j = addr.toNat then decide (value = 0xFF00#16) else Table.get s.eng.coil j

/-- A broadcast is never answered, but takes effect: from a good broadcast frame past the silence, two steps lead to IDLE with
nothing sent, and a Write Single Coil has written its coil. Derived from R165, R178, R196, R211 (the property S7 of
95_test_vectors.md). -/
def Obligations.BroadcastTakesEffectUnanswered : Prop :=
  ∀ (s : State) (t1 t2 : Time) (r1 r2 f1 f2 : Bool) (rest : List Input) (frame : List Byte), Inv s → s.params.ok = true →
    s.eng.phase = .processingNoResponse → s.eng.integrityOk = true →
    s.params.t35.toNat ≤ (t1 - s.eng.lastTs).toNat → rxFrame s = .ok frame →
    s.env.inputs = .event (.step t1 r1 f1) :: .event (.step t2 r2 f2) :: rest →
    ∃ u, core.run 2 s = .next u ∧ u.eng.phase = .idle ∧ u.env.sent = s.env.sent ∧ u.eng.de = false ∧
      ∀ a addr value, decodeRequest frame = .ok (.wsc a (.fields addr value)) →
        value = 0x0000#16 ∨ value = 0xFF00#16 → addr.toNat < s.params.nCoils →
        Table.get u.eng.coil addr.toNat = decide (value = 0xFF00#16)

/-! ### Host operations, ports and clock -/

/-- `HostSetAddr` stores any value and touches nothing else, in any phase; its port form stores `addr_wdata` while `addr_we = 1`; and
`addr_q` shows the address (R235). -/
def Obligations.HostAddressIsStored : Prop :=
  ∀ (s : State) (a : Byte) (p : PortsIn),
    applyEvent (.hostSetAddr a) s = .next { s with eng := { s.eng with slaveAddr := a } } ∧
    (hostWrites p s).eng.slaveAddr = (if p.addrWe then p.addrWdata else s.eng.slaveAddr) ∧
    (portsOut p s).addrQ = s.eng.slaveAddr

/-- A discrete input written by the host reads back, an index beyond the table is ignored and reads 0, every other input and
everything else is as before, and reading changes nothing. Derived from R236, R237 and the spec's decision D27 (R242). -/
def Obligations.HostInputReadsBack : Prop :=
  ∀ (s : State) (i j : Word) (v : Bool), Table.wf s.params.nInputs s.eng.di = true →
    applyEvent (.hostGetInput j) s = .next s ∧
    (s.params.nInputs ≤ j.toNat → hostGetInput j s = false) ∧
    ∃ u, applyEvent (.hostSetInput i v) s = .next u ∧ u = { s with eng := { s.eng with di := u.eng.di } } ∧
      hostGetInput j u = if j = i ∧ i.toNat < s.params.nInputs then v else hostGetInput j s

/-- A coil written by the host reads back, an index beyond the table is ignored and reads 0, every other coil and everything else is
as before, reading does not clear, and the ports do the same (R238, R239). -/
def Obligations.HostCoilReadsBack : Prop :=
  ∀ (s : State) (i j : Word) (v : Bool), Table.wf s.params.nCoils s.eng.coil = true →
    applyEvent (.hostGetCoil j) s = .next s ∧
    (s.params.nCoils ≤ j.toNat → hostGetCoil j s = false) ∧
    (j.toNat < s.params.nCoils → hostGetCoil j s = Table.get s.eng.coil j.toNat) ∧
    (∀ p : PortsIn, (portsOut p s).coilRdata = hostGetCoil p.coilRidx s) ∧
    ∃ u, applyEvent (.hostSetCoil i v) s = .next u ∧ u = { s with eng := { s.eng with coil := u.eng.coil } } ∧
      (hostGetCoil j u = if j = i ∧ i.toNat < s.params.nCoils then v else hostGetCoil j s) ∧
      ∀ p : PortsIn, p.coilWe = true → p.coilWidx = i → p.coilWdata = v → (hostWrites p s).eng.coil = u.eng.coil

/-- The counters are read as they stand, all from one state, `cnt[0]` in the low bits of the port, and reading clears nothing
(R240). -/
def Obligations.StatsAreReadWithoutClearing : Prop :=
  ∀ (s : State) (p : PortsIn), applyEvent .hostStats s = .next s ∧ hostStats s = s.eng.cnt ∧
    (portsOut p s).statQ.extractLsb' 0 16 = s.eng.cnt.busMsg ∧
    (portsOut p s).statQ.extractLsb' 16 16 = s.eng.cnt.busErr ∧
    (portsOut p s).statQ.extractLsb' 32 16 = s.eng.cnt.exc ∧
    (portsOut p s).statQ.extractLsb' 48 16 = s.eng.cnt.slaveMsg ∧
    (portsOut p s).statQ.extractLsb' 64 16 = s.eng.cnt.noResp ∧
    (portsOut p s).statQ.extractLsb' 80 16 = s.eng.cnt.nak ∧
    (portsOut p s).statQ.extractLsb' 96 16 = s.eng.cnt.busy ∧
    (portsOut p s).statQ.extractLsb' 112 16 = s.eng.cnt.overrun

/-- One clock edge is a list of events in a fixed order: `Reset` alone while `rst = 1`; else the host writes, the address before the
input before the coil, and then the byte, if reception is enabled and one is presented, or the processing step. Derived from R231, R241 (the spec's decisions D2, D35). -/
def Obligations.ClockEdgeOrder : Prop :=
  ∀ (s : State) (p : PortsIn),
    (p.rst = true → clockEdge p s = applyEvent .reset s) ∧
    (p.rst = false → s.eng.rxEn = true → p.rxValid = true →
      clockEdge p s = applyAll (portWrites p ++ [.rxByte p.rxData p.rxPerr p.rxFerr p.rxOerr p.nowUs]) s) ∧
    (p.rst = false → (s.eng.rxEn = false ∨ p.rxValid = false) →
      clockEdge p s = applyAll (portWrites p ++ [.step p.nowUs p.txReady p.txFlushed]) s)

/-- A Write Single Coil dispatched in the cycle of a host write to the same coil wins, while the read port shows the level before
the edge. Derived from R241 (the spec's decision D35). -/
def Obligations.DispatchWinsOverHostWrite : Prop :=
  ∀ (s : State) (p : PortsIn) (frame : List Byte) (a : Byte) (addr value : Word),
    Table.wf s.params.nCoils s.eng.coil = true → p.rst = false → p.rxValid = false →
    p.coilWe = true → p.coilWidx = addr → p.coilRidx = addr →
    s.eng.phase = .processingResponse ∨ s.eng.phase = .processingNoResponse →
    s.params.t35.toNat ≤ (p.nowUs - s.eng.lastTs).toNat → s.eng.integrityOk = true →
    rxFrame s = .ok frame → decodeRequest frame = .ok (.wsc a (.fields addr value)) →
    value = 0x0000#16 ∨ value = 0xFF00#16 → addr.toNat < s.params.nCoils →
    (portsOut p s).coilRdata = Table.get s.eng.coil addr.toNat ∧
    ∃ u, clockEdge p s = .next u ∧ Table.get u.eng.coil addr.toNat = decide (value = 0xFF00#16)

/-! ### Reset -/

/-- `Reset` in any state, in any phase: every piece of state takes its reset value, for whatever parameters. Derived from R47, R290,
R291 (the working registers' values are the spec's decision D28). -/
def Obligations.ResetGivesTabledValues : Prop :=
  ∀ s : State, ∃ u, applyEvent .reset s = .next u ∧
    u.eng.phase = .init ∧ u.eng.rxCount = 0 ∧ u.eng.lastTs = 0 ∧ u.eng.integrityOk = true ∧ u.eng.txLen = 0 ∧
    u.eng.txPending = false ∧ u.eng.txIdx = 0 ∧ u.eng.emit = .arm ∧ u.eng.de = false ∧ u.eng.rxEn = true ∧
    (∀ i, Memory.read u.eng.rxBuf i = none) ∧ (∀ i, Memory.read u.eng.txBuf i = none) ∧
    u.eng.slaveAddr = s.params.addrReset ∧
    (∀ i, Table.get u.eng.di i = false) ∧ (∀ i, Table.get u.eng.coil i = false) ∧
    u.eng.ireg.length = s.params.nInputRegs ∧ (∀ w ∈ u.eng.ireg, w = 0) ∧
    u.eng.hreg.length = s.params.nHoldingRegs ∧ (∀ w ∈ u.eng.hreg, w = 0) ∧
    (∀ k, u.eng.cnt.get k = 0) ∧ u.params = s.params ∧ u.env = s.env

/-! ### Invariants and rules of the whole machine -/

/-- The invariant holds after reset, for every configuration. Derived from R46, R47. -/
def Obligations.ResetSatisfiesInvariant : Prop := ∀ p : Params, Inv (State.resetWith p)

/-- Every step keeps the invariant, from every state that has it, on every input. Derived from R46 and the rules it names. -/
def Obligations.EveryStepKeepsInvariant : Prop := ∀ s t : State, Inv s → step s = .next t → Inv t

/-- Nothing is fatal: from every state with the invariant and a legal configuration, whatever the input, a step goes on. Derived from
R18, R250, R269. -/
def Obligations.NoStepStops : Prop := ∀ s : State, Inv s → s.params.ok = true → ∃ t, step s = .next t

/-- A configuration outside the constraints of R9 and R11 is refused, and no other is. Derived from R306 and U6, U7 of
93_implementation_defined.md. -/
def Obligations.BadConfigurationIsRefused : Prop :=
  ∀ s : State, step s = .refused .badConfiguration ↔
    ¬ (s.params.nInputs ≤ 2000 ∧ s.params.nCoils ≤ 65536 ∧ 0 < s.params.t15.toNat ∧
        s.params.t15.toNat ≤ s.params.t35.toNat ∧ s.params.t35.toNat < 2 ^ 31)

/-- The phase moves only along the rows of the table of R23, each under its condition, and along every row whose condition holds
(R23). -/
def Obligations.PhaseMovesExactlyAsTabled : Prop :=
  (∀ (s t : State) (e : Event), applyEvent e s = .next t → t.eng.phase ≠ s.eng.phase → PhaseEdge s e t.eng.phase) ∧
  (∀ (s : State) (e : Event) (q : Phase), Inv s → s.params.ok = true → PhaseEdge s e q →
    ∃ t, applyEvent e s = .next t ∧ t.eng.phase = q)

/-- No step lowers a counter, but a reset (R44). -/
def Obligations.CountersNeverFall : Prop :=
  ∀ (s t : State) (k : CounterId), step s = .next t → resets (nextInput s) = false →
    (s.eng.cnt.get k).toNat ≤ (t.eng.cnt.get k).toNat

/-- The saturating increment: one more, and at the maximum the same. Derived from R45 (the spec's decision D6). -/
def Obligations.CounterSaturates : Prop :=
  ∀ (s : State) (k : CounterId), CountsOne k s (inc k s) ∧
    ∀ c : Count, (satInc c).toNat = if c.toNat < 2 ^ 16 - 1 then c.toNat + 1 else c.toNat

/-- A coil changes only by a reset, by the host operation that writes it, or by the dispatch of a Write Single Coil that names it,
and then to the level asked for. Derived from R38, R60, R78 (d), R190. -/
def Obligations.CoilsChangeOnlyOnCommand : Prop :=
  ∀ (s t : State) (i : Nat), Table.wf s.params.nCoils s.eng.coil = true → step s = .next t →
    resets (nextInput s) = false → hostWritesCoil i (nextInput s) = false →
    Table.get t.eng.coil i ≠ Table.get s.eng.coil i →
    (s.eng.phase = .processingResponse ∨ s.eng.phase = .processingNoResponse) ∧ s.eng.integrityOk = true ∧
    ∃ frame a addr value, rxFrame s = .ok frame ∧ decodeRequest frame = .ok (.wsc a (.fields addr value)) ∧
      addr.toNat = i ∧ i < s.params.nCoils ∧ Table.get t.eng.coil i = decide (value = 0xFF00#16)

/-- A discrete input and the device address change only by a reset or by the host operation that writes them: no request writes
them. Derived from R36, R37, R236, R271. -/
def Obligations.InputsAndAddressChangeOnlyByHost : Prop :=
  ∀ s t : State, step s = .next t → resets (nextInput s) = false →
    (∀ i, Table.wf s.params.nInputs s.eng.di = true → hostWritesInput i (nextInput s) = false →
      Table.get t.eng.di i = Table.get s.eng.di i) ∧
    (hostWritesAddr (nextInput s) = false → t.eng.slaveAddr = s.eng.slaveAddr)

/-- A received frame is immutable from the end of RECEPTION until the exchange is over. Derived from R81. -/
def Obligations.FrameIsImmutableAfterReception : Prop :=
  ∀ s t : State, step s = .next t → resets (nextInput s) = false →
    (s.eng.phase = .waiting ∨ s.eng.phase = .processingResponse ∨ s.eng.phase = .processingNoResponse ∨
      s.eng.phase = .discard ∨ (s.eng.phase = .emission ∧ s.eng.txPending = true)) →
    t.eng.rxBuf = s.eng.rxBuf ∧ t.eng.rxCount = s.eng.rxCount

/-- The parameters never change; the stub banks and the counters `NAK` and `BUSY` change only by a reset. Derived from section 5 of
00_scope.md, R40, R43. -/
def Obligations.StubsAndParametersAreConstant : Prop :=
  ∀ s t : State, step s = .next t → t.params = s.params ∧
    (resets (nextInput s) = false →
      t.eng.ireg = s.eng.ireg ∧ t.eng.hreg = s.eng.hreg ∧ t.eng.cnt.nak = s.eng.cnt.nak ∧
      t.eng.cnt.busy = s.eng.cnt.busy)

/-- A step sends at most one byte, and only in E_SEND, with `de = 1` and the driver ready, the byte that `tx_data` shows while
`tx_valid = 1`, and only out of a buffer that ends in its own CRC (R214). -/
def Obligations.BytesLeaveOnlyWhileDriving : Prop :=
  ∀ s t : State, Inv s → step s = .next t →
    t.env.sent = s.env.sent ∨
    ∃ v, t.env.sent = s.env.sent ++ [{ byte := v, de := true }] ∧ s.eng.phase = .emission ∧ s.eng.emit = .send ∧
      Memory.read s.eng.txBuf s.eng.txIdx = some v ∧ driverReady (nextInput s) = true ∧
      (∀ frame, txFrame s = .ok frame → crcMatches frame = true) ∧
      ∀ p, (portsOut p s).txValid = true ∧ (portsOut p s).txData = v

/-- The first byte of every reply, its address byte, is not the broadcast address. Derived from R165, R178, R194. -/
def Obligations.NoReplyToBroadcastAddress : Prop :=
  ∀ (s t : State) (x : Sent), Inv s → step s = .next t → s.eng.txIdx = 0 → t.env.sent = s.env.sent ++ [x] → x.byte ≠ 0

/-- No rule reads a cell of the receive buffer at or beyond `rx_count`: two states that differ only there step to two states that
differ only there, or stop alike. Derived from R33. -/
def Obligations.StaleCellsAreNeverRead : Prop :=
  ∀ s t : State, SameButStale s t →
    match step s, step t with
    | .next s', .next t' => SameButStale s' t'
    | .fault f, .fault g => f = g
    | .refused f, .refused g => f = g
    | _, _ => False

/-- The bytes already sent are an observation, not state: they influence nothing, and a step only appends to them. Derived from R16,
R48 (d). -/
def Obligations.ObservationHasNoInfluence : Prop :=
  ∀ (s : State) (l : List Sent),
    match step s, step { s with env := { s.env with sent := l } } with
    | .next u, .next u' => u'.eng = u.eng ∧ u'.params = u.params ∧ u'.env.inputs = u.env.inputs ∧
        u'.env.tick = u.env.tick ∧ ∃ new, u.env.sent = s.env.sent ++ new ∧ u'.env.sent = l ++ new
    | .fault f, .fault g => f = g
    | .refused f, .refused g => f = g
    | _, _ => False
end

