-- ==== Sys2Proof/Laws/Crc.lean ====
section
/-! SUPPORT. The laws of byte order and of the checksum. -/

namespace Sys2Proof.Machine

theorem be16_toNat (h l : Byte) : (be16 h l).toNat = h.toNat * 256 + l.toNat := by
  have := l.isLt
  simp only [be16, BitVec.toNat_append, Nat.shiftLeft_eq]
  rw [Nat.mul_comm, ← Nat.two_pow_add_eq_or_of_lt this, Nat.mul_comm]

theorem hiByte_toNat (v : Word) : (hiByte v).toNat = v.toNat / 256 := by
  simp only [hiByte, BitVec.extractLsb'_toNat, Nat.shiftRight_eq_div_pow]; omega

theorem loByte_toNat (v : Word) : (loByte v).toNat = v.toNat % 256 := by
  simp [loByte, BitVec.extractLsb'_toNat]

@[simp] theorem hiByte_be16 (h l : Byte) : hiByte (be16 h l) = h := by
  apply BitVec.eq_of_toNat_eq; rw [hiByte_toNat, be16_toNat]; omega

@[simp] theorem loByte_be16 (h l : Byte) : loByte (be16 h l) = l := by
  apply BitVec.eq_of_toNat_eq; rw [loByte_toNat, be16_toNat]; omega

@[simp] theorem be16_hiByte_loByte (v : Word) : be16 (hiByte v) (loByte v) = v := by
  apply BitVec.eq_of_toNat_eq; rw [be16_toNat, hiByte_toNat, loByte_toNat]; omega

@[simp] theorem crcBytes_length (b : List Byte) : (crcBytes b).length = 2 := rfl

theorem crcAcc_append (b c : List Byte) : crcAcc (b ++ c) = c.foldl crcStep (crcAcc b) := by
  simp [crcAcc, List.foldl_append]

@[simp] theorem beforeCrc_append (b c : List Byte) (h : c.length = 2) : beforeCrc (b ++ c) = b := by
  simp [beforeCrc, h]

theorem receivedCrc_append (b : List Byte) (l h : Byte) : receivedCrc (b ++ [l, h]) = be16 h l := by
  simp [receivedCrc, List.getD_eq_getElem?_getD]

/-- A sequence followed by its CRC passes the validator's comparison. -/
theorem crcMatches_append_crcBytes (b : List Byte) : crcMatches (b ++ crcBytes b) = true := by
  rw [crcMatches, beforeCrc_append _ _ rfl, crcBytes, receivedCrc_append]
  simp

/-- A frame that passes the comparison is its own prefix followed by the CRC of that prefix. -/
theorem eq_append_of_crcMatches {f : List Byte} (hl : 2 ≤ f.length) (h : crcMatches f = true) :
    f = beforeCrc f ++ crcBytes (beforeCrc f) := by
  obtain ⟨b, c, rfl, hc⟩ : ∃ b c, f = b ++ c ∧ c.length = 2 :=
    ⟨f.take (f.length - 2), f.drop (f.length - 2), by simp, by simp; omega⟩
  obtain ⟨l, r, rfl⟩ := List.length_eq_two.1 hc
  rw [crcMatches, beforeCrc_append _ _ rfl, receivedCrc_append, beq_iff_eq] at h
  simp [beforeCrc_append, crcBytes, ← h]

end Sys2Proof.Machine
end

