-- ==== Sys2Proof/Laws/Memory.lean ====
section
/-! SUPPORT. The laws of the byte buffers: read after write, the canonical form, and what reading or writing a run of cells does. -/

namespace Sys2Proof.Machine

open Config

theorem Memory.read_write (m : List Host.Cell) (a : Nat) (v : Byte) (b : Nat) :
    Memory.read (Memory.write m a v) b = if b = a then some v else Memory.read m b := by
  induction m with
  | nil => simp [Memory.write, Memory.read]
  | cons c m ih =>
    obtain ⟨k, w⟩ := c
    simp only [Memory.write]
    split
    · simp [Memory.read]
    · split
      · subst_vars; simp only [Memory.read]; split <;> rfl
      · simp only [Memory.read, ih]
        by_cases hb : b = k
        · subst hb; simp [show ¬ b = a by omega]
        · simp [hb]

theorem Memory.rising_mono {lo lo' : Nat} {m : List Host.Cell} (h : lo' ≤ lo) (hm : Memory.rising lo m = true) :
    Memory.rising lo' m = true := by
  cases m with
  | nil => rfl
  | cons c m =>
    simp only [Memory.rising, Bool.and_eq_true, decide_eq_true_eq] at hm ⊢
    exact ⟨⟨h.trans hm.1.1, hm.1.2⟩, hm.2⟩

theorem Memory.rising_write {m : List Host.Cell} {lo a : Nat} {v : Byte} (hm : Memory.rising lo m = true) (hlo : lo ≤ a)
    (ha : a < bufferCap) : Memory.rising lo (Memory.write m a v) = true := by
  induction m generalizing lo with
  | nil => simp [Memory.write, Memory.rising, hlo, ha]
  | cons c m ih =>
    obtain ⟨k, w⟩ := c
    simp only [Memory.rising, Bool.and_eq_true, decide_eq_true_eq] at hm
    obtain ⟨⟨h1, h2⟩, h3⟩ := hm
    simp only [Memory.write]
    split
    · rename_i hak
      simp only [Memory.rising, Bool.and_eq_true, decide_eq_true_eq]
      exact ⟨⟨hlo, ha⟩, ⟨hak, h2⟩, h3⟩
    · split
      · subst_vars; simp [Memory.rising, hlo, ha, h3]
      · simp only [Memory.rising, Bool.and_eq_true, decide_eq_true_eq]
        exact ⟨⟨h1, h2⟩, ih h3 (by omega)⟩

/-- A write inside the buffer keeps the canonical form. -/
theorem Memory.wf_write {m : List Host.Cell} {a : Nat} {v : Byte} (hm : Memory.wf m = true) (ha : a < bufferCap) :
    Memory.wf (Memory.write m a v) = true :=
  Memory.rising_write hm (Nat.zero_le a) ha

@[simp] theorem Memory.wf_nil : Memory.wf [] = true := rfl

theorem readCell_ok {sp : Space} {buf : List Host.Cell} {len i : Nat} {v : Byte} :
    readCell sp buf len i = .ok v ↔ i < len ∧ Memory.read buf i = some v := by
  unfold readCell
  split
  · split <;> simp_all
  · simp_all

/-- A run of cells that reads at all reads, cell by cell, what the buffer holds. -/
theorem readCells_spec {sp : Space} {buf : List Host.Cell} {len n i : Nat} {f : List Byte}
    (h : readCells sp buf len i n = .ok f) :
    f.length = n ∧ ∀ j < n, i + j < len ∧ f[j]? = Memory.read buf (i + j) ∧ (Memory.read buf (i + j)).isSome = true := by
  induction n generalizing i f with
  | zero => simp only [readCells, Except.ok.injEq] at h; subst h; simp
  | succ n ih =>
    simp only [readCells] at h
    split at h
    · cases h
    · rename_i v hv
      split at h
      · cases h
      · rename_i vs hvs
        simp only [Except.ok.injEq] at h
        subst h
        obtain ⟨hl, hr⟩ := ih hvs
        obtain ⟨h1, h2⟩ := readCell_ok.1 hv
        refine ⟨by simp [hl], fun j hj => ?_⟩
        cases j with
        | zero => simp [h1, h2]
        | succ j => simpa [Nat.add_assoc, Nat.add_comm 1 j] using hr j (by omega)

/-- A run of valid cells reads. -/
theorem readCells_ok {sp : Space} {buf : List Host.Cell} {len n i : Nat}
    (h : ∀ j < n, i + j < len ∧ (Memory.read buf (i + j)).isSome = true) :
    ∃ f, readCells sp buf len i n = .ok f := by
  induction n generalizing i with
  | zero => exact ⟨[], rfl⟩
  | succ n ih =>
    obtain ⟨h0, h1⟩ := h 0 (by omega)
    obtain ⟨v, hv⟩ := Option.isSome_iff_exists.1 h1
    obtain ⟨f, hf⟩ := ih (i := i + 1) (fun j hj => by simpa [Nat.add_assoc, Nat.add_comm 1 j] using h (j + 1) (by omega))
    have hc : readCell sp buf len i = .ok v := readCell_ok.2 ⟨h0, hv⟩
    exact ⟨v :: f, by simp [readCells, hc, hf]⟩

/-- A run that reads is determined by the cells it reads. -/
theorem readCells_of_getElem? {sp : Space} {buf : List Host.Cell} {len n i : Nat} {f : List Byte} (hl : f.length = n)
    (h : ∀ j < n, i + j < len ∧ Memory.read buf (i + j) = f[j]?) : readCells sp buf len i n = .ok f := by
  obtain ⟨g, hg⟩ := readCells_ok (sp := sp) (buf := buf) (len := len) (n := n) (i := i)
    (fun j hj => ⟨(h j hj).1, by rw [(h j hj).2]; simp [hl, hj]⟩)
  obtain ⟨gl, gr⟩ := readCells_spec hg
  rw [hg]
  congr 1
  apply List.ext_getElem? 
  intro j
  by_cases hj : j < n
  · rw [(gr j hj).2.1, (h j hj).2]
  · simp [hl, gl, Nat.le_of_not_lt hj]

/-- What a run of writes leaves in every cell. -/
theorem writeBytes_spec {sp : Space} {buf m : List Host.Cell} {vs : List Byte} {i : Nat}
    (h : writeBytes sp buf i vs = .ok m) (k : Nat) :
    Memory.read m k = if i ≤ k then (vs[k - i]?).or (Memory.read buf k) else Memory.read buf k := by
  induction vs generalizing i m with
  | nil => simp only [writeBytes, Except.ok.injEq] at h; subst h; simp
  | cons v vs ih =>
    simp only [writeBytes] at h
    split at h
    · split at h
      · cases h
      · rename_i m' hm'
        simp only [Except.ok.injEq] at h
        subst h
        rw [Memory.read_write, ih hm']
        by_cases hk : k = i
        · subst hk; simp
        · by_cases hik : i ≤ k
          · obtain ⟨d, hd⟩ : ∃ d, k - i = d + 1 := ⟨k - i - 1, by omega⟩
            have : k - (i + 1) = d := by omega
            simp [hk, hik, hd, this, show i + 1 ≤ k by omega]
          · simp [hk, hik, show ¬ i + 1 ≤ k by omega]
    · cases h

/-- A run of writes inside the buffer succeeds. -/
theorem writeBytes_ok {sp : Space} {buf : List Host.Cell} {vs : List Byte} {i : Nat} (h : i + vs.length ≤ bufferCap) :
    ∃ m, writeBytes sp buf i vs = .ok m := by
  induction vs generalizing i with
  | nil => exact ⟨buf, rfl⟩
  | cons v vs ih =>
    simp only [List.length_cons] at h
    obtain ⟨m, hm⟩ := ih (i := i + 1) (by omega)
    exact ⟨Memory.write m i v, by simp [writeBytes, hm, show i < 256 by simp only [bufferCap] at h; omega]⟩

/-- A run of writes keeps the canonical form. -/
theorem writeBytes_wf {sp : Space} {buf m : List Host.Cell} {vs : List Byte} {i : Nat} (hb : Memory.wf buf = true)
    (h : writeBytes sp buf i vs = .ok m) : Memory.wf m = true := by
  induction vs generalizing i m with
  | nil => simp only [writeBytes, Except.ok.injEq] at h; subst h; exact hb
  | cons v vs ih =>
    simp only [writeBytes] at h
    split at h
    · split at h
      · cases h
      · simp only [Except.ok.injEq] at h; subst h; exact Memory.wf_write (ih ‹_›) ‹_›
    · cases h

end Sys2Proof.Machine
end

