-- ==== Sys2Proof/Laws/State.lean ====
section
/-! SUPPORT. What every setter of `State` leaves in every field: one lemma per field and setter, each by `rfl`. -/

namespace Sys2Proof.Machine.State

variable (s : State)

@[simp] theorem setPhase_phase (p : Phase) : (s.setPhase p).eng.phase = p := rfl
@[simp] theorem setPhase_rxCount (p : Phase) : (s.setPhase p).eng.rxCount = s.eng.rxCount := rfl
@[simp] theorem setPhase_lastTs (p : Phase) : (s.setPhase p).eng.lastTs = s.eng.lastTs := rfl
@[simp] theorem setPhase_integrityOk (p : Phase) : (s.setPhase p).eng.integrityOk = s.eng.integrityOk := rfl
@[simp] theorem setPhase_txLen (p : Phase) : (s.setPhase p).eng.txLen = s.eng.txLen := rfl
@[simp] theorem setPhase_txPending (p : Phase) : (s.setPhase p).eng.txPending = s.eng.txPending := rfl
@[simp] theorem setPhase_txIdx (p : Phase) : (s.setPhase p).eng.txIdx = s.eng.txIdx := rfl
@[simp] theorem setPhase_emit (p : Phase) : (s.setPhase p).eng.emit = s.eng.emit := rfl
@[simp] theorem setPhase_de (p : Phase) : (s.setPhase p).eng.de = s.eng.de := rfl
@[simp] theorem setPhase_rxEn (p : Phase) : (s.setPhase p).eng.rxEn = s.eng.rxEn := rfl
@[simp] theorem setPhase_rxBuf (p : Phase) : (s.setPhase p).eng.rxBuf = s.eng.rxBuf := rfl
@[simp] theorem setPhase_txBuf (p : Phase) : (s.setPhase p).eng.txBuf = s.eng.txBuf := rfl
@[simp] theorem setPhase_slaveAddr (p : Phase) : (s.setPhase p).eng.slaveAddr = s.eng.slaveAddr := rfl
@[simp] theorem setPhase_di (p : Phase) : (s.setPhase p).eng.di = s.eng.di := rfl
@[simp] theorem setPhase_coil (p : Phase) : (s.setPhase p).eng.coil = s.eng.coil := rfl
@[simp] theorem setPhase_ireg (p : Phase) : (s.setPhase p).eng.ireg = s.eng.ireg := rfl
@[simp] theorem setPhase_hreg (p : Phase) : (s.setPhase p).eng.hreg = s.eng.hreg := rfl
@[simp] theorem setPhase_cnt (p : Phase) : (s.setPhase p).eng.cnt = s.eng.cnt := rfl
@[simp] theorem setPhase_params (p : Phase) : (s.setPhase p).params = s.params := rfl
@[simp] theorem setPhase_env (p : Phase) : (s.setPhase p).env = s.env := rfl

@[simp] theorem setRx_phase (buf : List Host.Cell) (n : Nat) : (s.setRx buf n).eng.phase = s.eng.phase := rfl
@[simp] theorem setRx_rxCount (buf : List Host.Cell) (n : Nat) : (s.setRx buf n).eng.rxCount = n := rfl
@[simp] theorem setRx_lastTs (buf : List Host.Cell) (n : Nat) : (s.setRx buf n).eng.lastTs = s.eng.lastTs := rfl
@[simp] theorem setRx_integrityOk (buf : List Host.Cell) (n : Nat) : (s.setRx buf n).eng.integrityOk = s.eng.integrityOk := rfl
@[simp] theorem setRx_txLen (buf : List Host.Cell) (n : Nat) : (s.setRx buf n).eng.txLen = s.eng.txLen := rfl
@[simp] theorem setRx_txPending (buf : List Host.Cell) (n : Nat) : (s.setRx buf n).eng.txPending = s.eng.txPending := rfl
@[simp] theorem setRx_txIdx (buf : List Host.Cell) (n : Nat) : (s.setRx buf n).eng.txIdx = s.eng.txIdx := rfl
@[simp] theorem setRx_emit (buf : List Host.Cell) (n : Nat) : (s.setRx buf n).eng.emit = s.eng.emit := rfl
@[simp] theorem setRx_de (buf : List Host.Cell) (n : Nat) : (s.setRx buf n).eng.de = s.eng.de := rfl
@[simp] theorem setRx_rxEn (buf : List Host.Cell) (n : Nat) : (s.setRx buf n).eng.rxEn = s.eng.rxEn := rfl
@[simp] theorem setRx_rxBuf (buf : List Host.Cell) (n : Nat) : (s.setRx buf n).eng.rxBuf = buf := rfl
@[simp] theorem setRx_txBuf (buf : List Host.Cell) (n : Nat) : (s.setRx buf n).eng.txBuf = s.eng.txBuf := rfl
@[simp] theorem setRx_slaveAddr (buf : List Host.Cell) (n : Nat) : (s.setRx buf n).eng.slaveAddr = s.eng.slaveAddr := rfl
@[simp] theorem setRx_di (buf : List Host.Cell) (n : Nat) : (s.setRx buf n).eng.di = s.eng.di := rfl
@[simp] theorem setRx_coil (buf : List Host.Cell) (n : Nat) : (s.setRx buf n).eng.coil = s.eng.coil := rfl
@[simp] theorem setRx_ireg (buf : List Host.Cell) (n : Nat) : (s.setRx buf n).eng.ireg = s.eng.ireg := rfl
@[simp] theorem setRx_hreg (buf : List Host.Cell) (n : Nat) : (s.setRx buf n).eng.hreg = s.eng.hreg := rfl
@[simp] theorem setRx_cnt (buf : List Host.Cell) (n : Nat) : (s.setRx buf n).eng.cnt = s.eng.cnt := rfl
@[simp] theorem setRx_params (buf : List Host.Cell) (n : Nat) : (s.setRx buf n).params = s.params := rfl
@[simp] theorem setRx_env (buf : List Host.Cell) (n : Nat) : (s.setRx buf n).env = s.env := rfl

@[simp] theorem setLastTs_phase (t : Time) : (s.setLastTs t).eng.phase = s.eng.phase := rfl
@[simp] theorem setLastTs_rxCount (t : Time) : (s.setLastTs t).eng.rxCount = s.eng.rxCount := rfl
@[simp] theorem setLastTs_lastTs (t : Time) : (s.setLastTs t).eng.lastTs = t := rfl
@[simp] theorem setLastTs_integrityOk (t : Time) : (s.setLastTs t).eng.integrityOk = s.eng.integrityOk := rfl
@[simp] theorem setLastTs_txLen (t : Time) : (s.setLastTs t).eng.txLen = s.eng.txLen := rfl
@[simp] theorem setLastTs_txPending (t : Time) : (s.setLastTs t).eng.txPending = s.eng.txPending := rfl
@[simp] theorem setLastTs_txIdx (t : Time) : (s.setLastTs t).eng.txIdx = s.eng.txIdx := rfl
@[simp] theorem setLastTs_emit (t : Time) : (s.setLastTs t).eng.emit = s.eng.emit := rfl
@[simp] theorem setLastTs_de (t : Time) : (s.setLastTs t).eng.de = s.eng.de := rfl
@[simp] theorem setLastTs_rxEn (t : Time) : (s.setLastTs t).eng.rxEn = s.eng.rxEn := rfl
@[simp] theorem setLastTs_rxBuf (t : Time) : (s.setLastTs t).eng.rxBuf = s.eng.rxBuf := rfl
@[simp] theorem setLastTs_txBuf (t : Time) : (s.setLastTs t).eng.txBuf = s.eng.txBuf := rfl
@[simp] theorem setLastTs_slaveAddr (t : Time) : (s.setLastTs t).eng.slaveAddr = s.eng.slaveAddr := rfl
@[simp] theorem setLastTs_di (t : Time) : (s.setLastTs t).eng.di = s.eng.di := rfl
@[simp] theorem setLastTs_coil (t : Time) : (s.setLastTs t).eng.coil = s.eng.coil := rfl
@[simp] theorem setLastTs_ireg (t : Time) : (s.setLastTs t).eng.ireg = s.eng.ireg := rfl
@[simp] theorem setLastTs_hreg (t : Time) : (s.setLastTs t).eng.hreg = s.eng.hreg := rfl
@[simp] theorem setLastTs_cnt (t : Time) : (s.setLastTs t).eng.cnt = s.eng.cnt := rfl
@[simp] theorem setLastTs_params (t : Time) : (s.setLastTs t).params = s.params := rfl
@[simp] theorem setLastTs_env (t : Time) : (s.setLastTs t).env = s.env := rfl

@[simp] theorem setIntegrity_phase (v : Bool) : (s.setIntegrity v).eng.phase = s.eng.phase := rfl
@[simp] theorem setIntegrity_rxCount (v : Bool) : (s.setIntegrity v).eng.rxCount = s.eng.rxCount := rfl
@[simp] theorem setIntegrity_lastTs (v : Bool) : (s.setIntegrity v).eng.lastTs = s.eng.lastTs := rfl
@[simp] theorem setIntegrity_integrityOk (v : Bool) : (s.setIntegrity v).eng.integrityOk = v := rfl
@[simp] theorem setIntegrity_txLen (v : Bool) : (s.setIntegrity v).eng.txLen = s.eng.txLen := rfl
@[simp] theorem setIntegrity_txPending (v : Bool) : (s.setIntegrity v).eng.txPending = s.eng.txPending := rfl
@[simp] theorem setIntegrity_txIdx (v : Bool) : (s.setIntegrity v).eng.txIdx = s.eng.txIdx := rfl
@[simp] theorem setIntegrity_emit (v : Bool) : (s.setIntegrity v).eng.emit = s.eng.emit := rfl
@[simp] theorem setIntegrity_de (v : Bool) : (s.setIntegrity v).eng.de = s.eng.de := rfl
@[simp] theorem setIntegrity_rxEn (v : Bool) : (s.setIntegrity v).eng.rxEn = s.eng.rxEn := rfl
@[simp] theorem setIntegrity_rxBuf (v : Bool) : (s.setIntegrity v).eng.rxBuf = s.eng.rxBuf := rfl
@[simp] theorem setIntegrity_txBuf (v : Bool) : (s.setIntegrity v).eng.txBuf = s.eng.txBuf := rfl
@[simp] theorem setIntegrity_slaveAddr (v : Bool) : (s.setIntegrity v).eng.slaveAddr = s.eng.slaveAddr := rfl
@[simp] theorem setIntegrity_di (v : Bool) : (s.setIntegrity v).eng.di = s.eng.di := rfl
@[simp] theorem setIntegrity_coil (v : Bool) : (s.setIntegrity v).eng.coil = s.eng.coil := rfl
@[simp] theorem setIntegrity_ireg (v : Bool) : (s.setIntegrity v).eng.ireg = s.eng.ireg := rfl
@[simp] theorem setIntegrity_hreg (v : Bool) : (s.setIntegrity v).eng.hreg = s.eng.hreg := rfl
@[simp] theorem setIntegrity_cnt (v : Bool) : (s.setIntegrity v).eng.cnt = s.eng.cnt := rfl
@[simp] theorem setIntegrity_params (v : Bool) : (s.setIntegrity v).params = s.params := rfl
@[simp] theorem setIntegrity_env (v : Bool) : (s.setIntegrity v).env = s.env := rfl

@[simp] theorem setTx_phase (buf : List Host.Cell) (n : Nat) : (s.setTx buf n).eng.phase = s.eng.phase := rfl
@[simp] theorem setTx_rxCount (buf : List Host.Cell) (n : Nat) : (s.setTx buf n).eng.rxCount = s.eng.rxCount := rfl
@[simp] theorem setTx_lastTs (buf : List Host.Cell) (n : Nat) : (s.setTx buf n).eng.lastTs = s.eng.lastTs := rfl
@[simp] theorem setTx_integrityOk (buf : List Host.Cell) (n : Nat) : (s.setTx buf n).eng.integrityOk = s.eng.integrityOk := rfl
@[simp] theorem setTx_txLen (buf : List Host.Cell) (n : Nat) : (s.setTx buf n).eng.txLen = n := rfl
@[simp] theorem setTx_txPending (buf : List Host.Cell) (n : Nat) : (s.setTx buf n).eng.txPending = s.eng.txPending := rfl
@[simp] theorem setTx_txIdx (buf : List Host.Cell) (n : Nat) : (s.setTx buf n).eng.txIdx = s.eng.txIdx := rfl
@[simp] theorem setTx_emit (buf : List Host.Cell) (n : Nat) : (s.setTx buf n).eng.emit = s.eng.emit := rfl
@[simp] theorem setTx_de (buf : List Host.Cell) (n : Nat) : (s.setTx buf n).eng.de = s.eng.de := rfl
@[simp] theorem setTx_rxEn (buf : List Host.Cell) (n : Nat) : (s.setTx buf n).eng.rxEn = s.eng.rxEn := rfl
@[simp] theorem setTx_rxBuf (buf : List Host.Cell) (n : Nat) : (s.setTx buf n).eng.rxBuf = s.eng.rxBuf := rfl
@[simp] theorem setTx_txBuf (buf : List Host.Cell) (n : Nat) : (s.setTx buf n).eng.txBuf = buf := rfl
@[simp] theorem setTx_slaveAddr (buf : List Host.Cell) (n : Nat) : (s.setTx buf n).eng.slaveAddr = s.eng.slaveAddr := rfl
@[simp] theorem setTx_di (buf : List Host.Cell) (n : Nat) : (s.setTx buf n).eng.di = s.eng.di := rfl
@[simp] theorem setTx_coil (buf : List Host.Cell) (n : Nat) : (s.setTx buf n).eng.coil = s.eng.coil := rfl
@[simp] theorem setTx_ireg (buf : List Host.Cell) (n : Nat) : (s.setTx buf n).eng.ireg = s.eng.ireg := rfl
@[simp] theorem setTx_hreg (buf : List Host.Cell) (n : Nat) : (s.setTx buf n).eng.hreg = s.eng.hreg := rfl
@[simp] theorem setTx_cnt (buf : List Host.Cell) (n : Nat) : (s.setTx buf n).eng.cnt = s.eng.cnt := rfl
@[simp] theorem setTx_params (buf : List Host.Cell) (n : Nat) : (s.setTx buf n).params = s.params := rfl
@[simp] theorem setTx_env (buf : List Host.Cell) (n : Nat) : (s.setTx buf n).env = s.env := rfl

@[simp] theorem setTxPending_phase (v : Bool) : (s.setTxPending v).eng.phase = s.eng.phase := rfl
@[simp] theorem setTxPending_rxCount (v : Bool) : (s.setTxPending v).eng.rxCount = s.eng.rxCount := rfl
@[simp] theorem setTxPending_lastTs (v : Bool) : (s.setTxPending v).eng.lastTs = s.eng.lastTs := rfl
@[simp] theorem setTxPending_integrityOk (v : Bool) : (s.setTxPending v).eng.integrityOk = s.eng.integrityOk := rfl
@[simp] theorem setTxPending_txLen (v : Bool) : (s.setTxPending v).eng.txLen = s.eng.txLen := rfl
@[simp] theorem setTxPending_txPending (v : Bool) : (s.setTxPending v).eng.txPending = v := rfl
@[simp] theorem setTxPending_txIdx (v : Bool) : (s.setTxPending v).eng.txIdx = s.eng.txIdx := rfl
@[simp] theorem setTxPending_emit (v : Bool) : (s.setTxPending v).eng.emit = s.eng.emit := rfl
@[simp] theorem setTxPending_de (v : Bool) : (s.setTxPending v).eng.de = s.eng.de := rfl
@[simp] theorem setTxPending_rxEn (v : Bool) : (s.setTxPending v).eng.rxEn = s.eng.rxEn := rfl
@[simp] theorem setTxPending_rxBuf (v : Bool) : (s.setTxPending v).eng.rxBuf = s.eng.rxBuf := rfl
@[simp] theorem setTxPending_txBuf (v : Bool) : (s.setTxPending v).eng.txBuf = s.eng.txBuf := rfl
@[simp] theorem setTxPending_slaveAddr (v : Bool) : (s.setTxPending v).eng.slaveAddr = s.eng.slaveAddr := rfl
@[simp] theorem setTxPending_di (v : Bool) : (s.setTxPending v).eng.di = s.eng.di := rfl
@[simp] theorem setTxPending_coil (v : Bool) : (s.setTxPending v).eng.coil = s.eng.coil := rfl
@[simp] theorem setTxPending_ireg (v : Bool) : (s.setTxPending v).eng.ireg = s.eng.ireg := rfl
@[simp] theorem setTxPending_hreg (v : Bool) : (s.setTxPending v).eng.hreg = s.eng.hreg := rfl
@[simp] theorem setTxPending_cnt (v : Bool) : (s.setTxPending v).eng.cnt = s.eng.cnt := rfl
@[simp] theorem setTxPending_params (v : Bool) : (s.setTxPending v).params = s.params := rfl
@[simp] theorem setTxPending_env (v : Bool) : (s.setTxPending v).env = s.env := rfl

@[simp] theorem setTxIdx_phase (i : Nat) : (s.setTxIdx i).eng.phase = s.eng.phase := rfl
@[simp] theorem setTxIdx_rxCount (i : Nat) : (s.setTxIdx i).eng.rxCount = s.eng.rxCount := rfl
@[simp] theorem setTxIdx_lastTs (i : Nat) : (s.setTxIdx i).eng.lastTs = s.eng.lastTs := rfl
@[simp] theorem setTxIdx_integrityOk (i : Nat) : (s.setTxIdx i).eng.integrityOk = s.eng.integrityOk := rfl
@[simp] theorem setTxIdx_txLen (i : Nat) : (s.setTxIdx i).eng.txLen = s.eng.txLen := rfl
@[simp] theorem setTxIdx_txPending (i : Nat) : (s.setTxIdx i).eng.txPending = s.eng.txPending := rfl
@[simp] theorem setTxIdx_txIdx (i : Nat) : (s.setTxIdx i).eng.txIdx = i := rfl
@[simp] theorem setTxIdx_emit (i : Nat) : (s.setTxIdx i).eng.emit = s.eng.emit := rfl
@[simp] theorem setTxIdx_de (i : Nat) : (s.setTxIdx i).eng.de = s.eng.de := rfl
@[simp] theorem setTxIdx_rxEn (i : Nat) : (s.setTxIdx i).eng.rxEn = s.eng.rxEn := rfl
@[simp] theorem setTxIdx_rxBuf (i : Nat) : (s.setTxIdx i).eng.rxBuf = s.eng.rxBuf := rfl
@[simp] theorem setTxIdx_txBuf (i : Nat) : (s.setTxIdx i).eng.txBuf = s.eng.txBuf := rfl
@[simp] theorem setTxIdx_slaveAddr (i : Nat) : (s.setTxIdx i).eng.slaveAddr = s.eng.slaveAddr := rfl
@[simp] theorem setTxIdx_di (i : Nat) : (s.setTxIdx i).eng.di = s.eng.di := rfl
@[simp] theorem setTxIdx_coil (i : Nat) : (s.setTxIdx i).eng.coil = s.eng.coil := rfl
@[simp] theorem setTxIdx_ireg (i : Nat) : (s.setTxIdx i).eng.ireg = s.eng.ireg := rfl
@[simp] theorem setTxIdx_hreg (i : Nat) : (s.setTxIdx i).eng.hreg = s.eng.hreg := rfl
@[simp] theorem setTxIdx_cnt (i : Nat) : (s.setTxIdx i).eng.cnt = s.eng.cnt := rfl
@[simp] theorem setTxIdx_params (i : Nat) : (s.setTxIdx i).params = s.params := rfl
@[simp] theorem setTxIdx_env (i : Nat) : (s.setTxIdx i).env = s.env := rfl

@[simp] theorem setEmit_phase (e : Emit) : (s.setEmit e).eng.phase = s.eng.phase := rfl
@[simp] theorem setEmit_rxCount (e : Emit) : (s.setEmit e).eng.rxCount = s.eng.rxCount := rfl
@[simp] theorem setEmit_lastTs (e : Emit) : (s.setEmit e).eng.lastTs = s.eng.lastTs := rfl
@[simp] theorem setEmit_integrityOk (e : Emit) : (s.setEmit e).eng.integrityOk = s.eng.integrityOk := rfl
@[simp] theorem setEmit_txLen (e : Emit) : (s.setEmit e).eng.txLen = s.eng.txLen := rfl
@[simp] theorem setEmit_txPending (e : Emit) : (s.setEmit e).eng.txPending = s.eng.txPending := rfl
@[simp] theorem setEmit_txIdx (e : Emit) : (s.setEmit e).eng.txIdx = s.eng.txIdx := rfl
@[simp] theorem setEmit_emit (e : Emit) : (s.setEmit e).eng.emit = e := rfl
@[simp] theorem setEmit_de (e : Emit) : (s.setEmit e).eng.de = s.eng.de := rfl
@[simp] theorem setEmit_rxEn (e : Emit) : (s.setEmit e).eng.rxEn = s.eng.rxEn := rfl
@[simp] theorem setEmit_rxBuf (e : Emit) : (s.setEmit e).eng.rxBuf = s.eng.rxBuf := rfl
@[simp] theorem setEmit_txBuf (e : Emit) : (s.setEmit e).eng.txBuf = s.eng.txBuf := rfl
@[simp] theorem setEmit_slaveAddr (e : Emit) : (s.setEmit e).eng.slaveAddr = s.eng.slaveAddr := rfl
@[simp] theorem setEmit_di (e : Emit) : (s.setEmit e).eng.di = s.eng.di := rfl
@[simp] theorem setEmit_coil (e : Emit) : (s.setEmit e).eng.coil = s.eng.coil := rfl
@[simp] theorem setEmit_ireg (e : Emit) : (s.setEmit e).eng.ireg = s.eng.ireg := rfl
@[simp] theorem setEmit_hreg (e : Emit) : (s.setEmit e).eng.hreg = s.eng.hreg := rfl
@[simp] theorem setEmit_cnt (e : Emit) : (s.setEmit e).eng.cnt = s.eng.cnt := rfl
@[simp] theorem setEmit_params (e : Emit) : (s.setEmit e).params = s.params := rfl
@[simp] theorem setEmit_env (e : Emit) : (s.setEmit e).env = s.env := rfl

@[simp] theorem setLine_phase (d r : Bool) : (s.setLine d r).eng.phase = s.eng.phase := rfl
@[simp] theorem setLine_rxCount (d r : Bool) : (s.setLine d r).eng.rxCount = s.eng.rxCount := rfl
@[simp] theorem setLine_lastTs (d r : Bool) : (s.setLine d r).eng.lastTs = s.eng.lastTs := rfl
@[simp] theorem setLine_integrityOk (d r : Bool) : (s.setLine d r).eng.integrityOk = s.eng.integrityOk := rfl
@[simp] theorem setLine_txLen (d r : Bool) : (s.setLine d r).eng.txLen = s.eng.txLen := rfl
@[simp] theorem setLine_txPending (d r : Bool) : (s.setLine d r).eng.txPending = s.eng.txPending := rfl
@[simp] theorem setLine_txIdx (d r : Bool) : (s.setLine d r).eng.txIdx = s.eng.txIdx := rfl
@[simp] theorem setLine_emit (d r : Bool) : (s.setLine d r).eng.emit = s.eng.emit := rfl
@[simp] theorem setLine_de (d r : Bool) : (s.setLine d r).eng.de = d := rfl
@[simp] theorem setLine_rxEn (d r : Bool) : (s.setLine d r).eng.rxEn = r := rfl
@[simp] theorem setLine_rxBuf (d r : Bool) : (s.setLine d r).eng.rxBuf = s.eng.rxBuf := rfl
@[simp] theorem setLine_txBuf (d r : Bool) : (s.setLine d r).eng.txBuf = s.eng.txBuf := rfl
@[simp] theorem setLine_slaveAddr (d r : Bool) : (s.setLine d r).eng.slaveAddr = s.eng.slaveAddr := rfl
@[simp] theorem setLine_di (d r : Bool) : (s.setLine d r).eng.di = s.eng.di := rfl
@[simp] theorem setLine_coil (d r : Bool) : (s.setLine d r).eng.coil = s.eng.coil := rfl
@[simp] theorem setLine_ireg (d r : Bool) : (s.setLine d r).eng.ireg = s.eng.ireg := rfl
@[simp] theorem setLine_hreg (d r : Bool) : (s.setLine d r).eng.hreg = s.eng.hreg := rfl
@[simp] theorem setLine_cnt (d r : Bool) : (s.setLine d r).eng.cnt = s.eng.cnt := rfl
@[simp] theorem setLine_params (d r : Bool) : (s.setLine d r).params = s.params := rfl
@[simp] theorem setLine_env (d r : Bool) : (s.setLine d r).env = s.env := rfl

@[simp] theorem setSlaveAddr_phase (a : Byte) : (s.setSlaveAddr a).eng.phase = s.eng.phase := rfl
@[simp] theorem setSlaveAddr_rxCount (a : Byte) : (s.setSlaveAddr a).eng.rxCount = s.eng.rxCount := rfl
@[simp] theorem setSlaveAddr_lastTs (a : Byte) : (s.setSlaveAddr a).eng.lastTs = s.eng.lastTs := rfl
@[simp] theorem setSlaveAddr_integrityOk (a : Byte) : (s.setSlaveAddr a).eng.integrityOk = s.eng.integrityOk := rfl
@[simp] theorem setSlaveAddr_txLen (a : Byte) : (s.setSlaveAddr a).eng.txLen = s.eng.txLen := rfl
@[simp] theorem setSlaveAddr_txPending (a : Byte) : (s.setSlaveAddr a).eng.txPending = s.eng.txPending := rfl
@[simp] theorem setSlaveAddr_txIdx (a : Byte) : (s.setSlaveAddr a).eng.txIdx = s.eng.txIdx := rfl
@[simp] theorem setSlaveAddr_emit (a : Byte) : (s.setSlaveAddr a).eng.emit = s.eng.emit := rfl
@[simp] theorem setSlaveAddr_de (a : Byte) : (s.setSlaveAddr a).eng.de = s.eng.de := rfl
@[simp] theorem setSlaveAddr_rxEn (a : Byte) : (s.setSlaveAddr a).eng.rxEn = s.eng.rxEn := rfl
@[simp] theorem setSlaveAddr_rxBuf (a : Byte) : (s.setSlaveAddr a).eng.rxBuf = s.eng.rxBuf := rfl
@[simp] theorem setSlaveAddr_txBuf (a : Byte) : (s.setSlaveAddr a).eng.txBuf = s.eng.txBuf := rfl
@[simp] theorem setSlaveAddr_slaveAddr (a : Byte) : (s.setSlaveAddr a).eng.slaveAddr = a := rfl
@[simp] theorem setSlaveAddr_di (a : Byte) : (s.setSlaveAddr a).eng.di = s.eng.di := rfl
@[simp] theorem setSlaveAddr_coil (a : Byte) : (s.setSlaveAddr a).eng.coil = s.eng.coil := rfl
@[simp] theorem setSlaveAddr_ireg (a : Byte) : (s.setSlaveAddr a).eng.ireg = s.eng.ireg := rfl
@[simp] theorem setSlaveAddr_hreg (a : Byte) : (s.setSlaveAddr a).eng.hreg = s.eng.hreg := rfl
@[simp] theorem setSlaveAddr_cnt (a : Byte) : (s.setSlaveAddr a).eng.cnt = s.eng.cnt := rfl
@[simp] theorem setSlaveAddr_params (a : Byte) : (s.setSlaveAddr a).params = s.params := rfl
@[simp] theorem setSlaveAddr_env (a : Byte) : (s.setSlaveAddr a).env = s.env := rfl

@[simp] theorem setDi_phase (w : List Word) : (s.setDi w).eng.phase = s.eng.phase := rfl
@[simp] theorem setDi_rxCount (w : List Word) : (s.setDi w).eng.rxCount = s.eng.rxCount := rfl
@[simp] theorem setDi_lastTs (w : List Word) : (s.setDi w).eng.lastTs = s.eng.lastTs := rfl
@[simp] theorem setDi_integrityOk (w : List Word) : (s.setDi w).eng.integrityOk = s.eng.integrityOk := rfl
@[simp] theorem setDi_txLen (w : List Word) : (s.setDi w).eng.txLen = s.eng.txLen := rfl
@[simp] theorem setDi_txPending (w : List Word) : (s.setDi w).eng.txPending = s.eng.txPending := rfl
@[simp] theorem setDi_txIdx (w : List Word) : (s.setDi w).eng.txIdx = s.eng.txIdx := rfl
@[simp] theorem setDi_emit (w : List Word) : (s.setDi w).eng.emit = s.eng.emit := rfl
@[simp] theorem setDi_de (w : List Word) : (s.setDi w).eng.de = s.eng.de := rfl
@[simp] theorem setDi_rxEn (w : List Word) : (s.setDi w).eng.rxEn = s.eng.rxEn := rfl
@[simp] theorem setDi_rxBuf (w : List Word) : (s.setDi w).eng.rxBuf = s.eng.rxBuf := rfl
@[simp] theorem setDi_txBuf (w : List Word) : (s.setDi w).eng.txBuf = s.eng.txBuf := rfl
@[simp] theorem setDi_slaveAddr (w : List Word) : (s.setDi w).eng.slaveAddr = s.eng.slaveAddr := rfl
@[simp] theorem setDi_di (w : List Word) : (s.setDi w).eng.di = w := rfl
@[simp] theorem setDi_coil (w : List Word) : (s.setDi w).eng.coil = s.eng.coil := rfl
@[simp] theorem setDi_ireg (w : List Word) : (s.setDi w).eng.ireg = s.eng.ireg := rfl
@[simp] theorem setDi_hreg (w : List Word) : (s.setDi w).eng.hreg = s.eng.hreg := rfl
@[simp] theorem setDi_cnt (w : List Word) : (s.setDi w).eng.cnt = s.eng.cnt := rfl
@[simp] theorem setDi_params (w : List Word) : (s.setDi w).params = s.params := rfl
@[simp] theorem setDi_env (w : List Word) : (s.setDi w).env = s.env := rfl

@[simp] theorem setCoil_phase (w : List Word) : (s.setCoil w).eng.phase = s.eng.phase := rfl
@[simp] theorem setCoil_rxCount (w : List Word) : (s.setCoil w).eng.rxCount = s.eng.rxCount := rfl
@[simp] theorem setCoil_lastTs (w : List Word) : (s.setCoil w).eng.lastTs = s.eng.lastTs := rfl
@[simp] theorem setCoil_integrityOk (w : List Word) : (s.setCoil w).eng.integrityOk = s.eng.integrityOk := rfl
@[simp] theorem setCoil_txLen (w : List Word) : (s.setCoil w).eng.txLen = s.eng.txLen := rfl
@[simp] theorem setCoil_txPending (w : List Word) : (s.setCoil w).eng.txPending = s.eng.txPending := rfl
@[simp] theorem setCoil_txIdx (w : List Word) : (s.setCoil w).eng.txIdx = s.eng.txIdx := rfl
@[simp] theorem setCoil_emit (w : List Word) : (s.setCoil w).eng.emit = s.eng.emit := rfl
@[simp] theorem setCoil_de (w : List Word) : (s.setCoil w).eng.de = s.eng.de := rfl
@[simp] theorem setCoil_rxEn (w : List Word) : (s.setCoil w).eng.rxEn = s.eng.rxEn := rfl
@[simp] theorem setCoil_rxBuf (w : List Word) : (s.setCoil w).eng.rxBuf = s.eng.rxBuf := rfl
@[simp] theorem setCoil_txBuf (w : List Word) : (s.setCoil w).eng.txBuf = s.eng.txBuf := rfl
@[simp] theorem setCoil_slaveAddr (w : List Word) : (s.setCoil w).eng.slaveAddr = s.eng.slaveAddr := rfl
@[simp] theorem setCoil_di (w : List Word) : (s.setCoil w).eng.di = s.eng.di := rfl
@[simp] theorem setCoil_coil (w : List Word) : (s.setCoil w).eng.coil = w := rfl
@[simp] theorem setCoil_ireg (w : List Word) : (s.setCoil w).eng.ireg = s.eng.ireg := rfl
@[simp] theorem setCoil_hreg (w : List Word) : (s.setCoil w).eng.hreg = s.eng.hreg := rfl
@[simp] theorem setCoil_cnt (w : List Word) : (s.setCoil w).eng.cnt = s.eng.cnt := rfl
@[simp] theorem setCoil_params (w : List Word) : (s.setCoil w).params = s.params := rfl
@[simp] theorem setCoil_env (w : List Word) : (s.setCoil w).env = s.env := rfl

@[simp] theorem setCnt_phase (c : Counters) : (s.setCnt c).eng.phase = s.eng.phase := rfl
@[simp] theorem setCnt_rxCount (c : Counters) : (s.setCnt c).eng.rxCount = s.eng.rxCount := rfl
@[simp] theorem setCnt_lastTs (c : Counters) : (s.setCnt c).eng.lastTs = s.eng.lastTs := rfl
@[simp] theorem setCnt_integrityOk (c : Counters) : (s.setCnt c).eng.integrityOk = s.eng.integrityOk := rfl
@[simp] theorem setCnt_txLen (c : Counters) : (s.setCnt c).eng.txLen = s.eng.txLen := rfl
@[simp] theorem setCnt_txPending (c : Counters) : (s.setCnt c).eng.txPending = s.eng.txPending := rfl
@[simp] theorem setCnt_txIdx (c : Counters) : (s.setCnt c).eng.txIdx = s.eng.txIdx := rfl
@[simp] theorem setCnt_emit (c : Counters) : (s.setCnt c).eng.emit = s.eng.emit := rfl
@[simp] theorem setCnt_de (c : Counters) : (s.setCnt c).eng.de = s.eng.de := rfl
@[simp] theorem setCnt_rxEn (c : Counters) : (s.setCnt c).eng.rxEn = s.eng.rxEn := rfl
@[simp] theorem setCnt_rxBuf (c : Counters) : (s.setCnt c).eng.rxBuf = s.eng.rxBuf := rfl
@[simp] theorem setCnt_txBuf (c : Counters) : (s.setCnt c).eng.txBuf = s.eng.txBuf := rfl
@[simp] theorem setCnt_slaveAddr (c : Counters) : (s.setCnt c).eng.slaveAddr = s.eng.slaveAddr := rfl
@[simp] theorem setCnt_di (c : Counters) : (s.setCnt c).eng.di = s.eng.di := rfl
@[simp] theorem setCnt_coil (c : Counters) : (s.setCnt c).eng.coil = s.eng.coil := rfl
@[simp] theorem setCnt_ireg (c : Counters) : (s.setCnt c).eng.ireg = s.eng.ireg := rfl
@[simp] theorem setCnt_hreg (c : Counters) : (s.setCnt c).eng.hreg = s.eng.hreg := rfl
@[simp] theorem setCnt_cnt (c : Counters) : (s.setCnt c).eng.cnt = c := rfl
@[simp] theorem setCnt_params (c : Counters) : (s.setCnt c).params = s.params := rfl
@[simp] theorem setCnt_env (c : Counters) : (s.setCnt c).env = s.env := rfl

@[simp] theorem setEng_eng (e : Engine) : (s.setEng e).eng = e := rfl
@[simp] theorem setEng_params (e : Engine) : (s.setEng e).params = s.params := rfl
@[simp] theorem setEng_env (e : Engine) : (s.setEng e).env = s.env := rfl

@[simp] theorem addSent_eng (x : Sent) : (s.addSent x).eng = s.eng := rfl
@[simp] theorem addSent_params (x : Sent) : (s.addSent x).params = s.params := rfl
@[simp] theorem addSent_inputs (x : Sent) : (s.addSent x).env.inputs = s.env.inputs := rfl
@[simp] theorem addSent_tick (x : Sent) : (s.addSent x).env.tick = s.env.tick := rfl
@[simp] theorem addSent_sent (x : Sent) : (s.addSent x).env.sent = s.env.sent ++ [x] := rfl

@[simp] theorem setInputs_eng (l : List Input) : (s.setInputs l).eng = s.eng := rfl
@[simp] theorem setInputs_params (l : List Input) : (s.setInputs l).params = s.params := rfl
@[simp] theorem setInputs_inputs (l : List Input) : (s.setInputs l).env.inputs = l := rfl
@[simp] theorem setInputs_tick (l : List Input) : (s.setInputs l).env.tick = s.env.tick + 1 := rfl
@[simp] theorem setInputs_sent (l : List Input) : (s.setInputs l).env.sent = s.env.sent := rfl

end Sys2Proof.Machine.State
end

