-- ==== Sys2Proof/Laws/Commit.lean ====
section
/-! SUPPORT. What the shared operations of the dispatcher can do: `inc`, `commit`, `takeException`. -/

namespace Sys2Proof.Machine

open Sys2Proof.Safety

@[simp] theorem inc_params (k : CounterId) (s : State) : (inc k s).params = s.params := rfl
@[simp] theorem inc_env (k : CounterId) (s : State) : (inc k s).env = s.env := rfl
@[simp] theorem inc_phase (k : CounterId) (s : State) : (inc k s).eng.phase = s.eng.phase := rfl
@[simp] theorem inc_coil (k : CounterId) (s : State) : (inc k s).eng.coil = s.eng.coil := rfl
@[simp] theorem inc_txBuf (k : CounterId) (s : State) : (inc k s).eng.txBuf = s.eng.txBuf := rfl
@[simp] theorem inc_txLen (k : CounterId) (s : State) : (inc k s).eng.txLen = s.eng.txLen := rfl
@[simp] theorem inc_txPending (k : CounterId) (s : State) : (inc k s).eng.txPending = s.eng.txPending := rfl

theorem Counters.get_inc (c : Counters) (k j : CounterId) :
    (c.inc k).get j = if j = k then satInc (c.get j) else c.get j := by
  cases k <;> cases j <;> rfl

theorem inc_countsOne (k : CounterId) (s : State) : CountsOne k s (inc k s) := fun _ => Counters.get_inc _ _ _

/-- A commit that goes on does what R196 says and nothing else. -/
theorem succeeds_of_commit {reply : List Byte} {s t : State} (h : commit reply s = .next t) :
    Succeeds reply s.eng.coil s t := by
  unfold commit at h
  split at h
  · rename_i hp
    split at h
    · cases h
    · rename_i m hm
      cases h
      refine ⟨?_, rfl, rfl, ⟨rfl, rfl, rfl, rfl, rfl, rfl, rfl, rfl, rfl, rfl, rfl, rfl, rfl, rfl, rfl⟩⟩
      simp only [CommitsReply, if_pos hp]
      exact ⟨rfl, rfl, fun i => by simpa using writeBytes_spec hm i⟩
  · rename_i hp
    cases h
    refine ⟨?_, rfl, rfl, ⟨rfl, rfl, rfl, rfl, rfl, rfl, rfl, rfl, rfl, rfl, rfl, rfl, rfl, rfl, rfl⟩⟩
    simp only [CommitsReply, if_neg hp]
    exact ⟨rfl, rfl, rfl⟩

/-- A reply that fits the buffer is committed. -/
theorem commit_ok {reply : List Byte} (s : State) (h : reply.length ≤ Config.bufferCap) :
    ∃ t, commit reply s = .next t ∧ Succeeds reply s.eng.coil s t := by
  obtain ⟨m, hm⟩ := writeBytes_ok (sp := .tx) (buf := s.eng.txBuf) (vs := reply) (i := 0) (by omega)
  suffices h : ∃ t, commit reply s = .next t from h.imp fun _ ht => ⟨ht, succeeds_of_commit ht⟩
  by_cases hp : s.eng.phase = .processingResponse
  · exact ⟨((s.setTx m reply.length).setTxPending true).setPhase .emission, by simp only [commit, if_pos hp, hm]⟩
  · exact ⟨s.setPhase .emission, by simp only [commit, if_neg hp]⟩

/-- Taking an exception always goes on, and does what R265 says. -/
theorem takeException_ok (a f : Byte) (code : ExcCode) (s : State) :
    ∃ t, takeException a f code s = .next t ∧ TakesException a f (excByte code) s t := by
  obtain ⟨t, ht, hs⟩ := commit_ok (reply := [a, excFunction f, excByte code]) (inc .exc s) (by simp [Config.bufferCap])
  refine ⟨t, ht, hs.reply, fun c => ?_, hs.coil, ?_⟩
  · rw [hs.cnt]; exact inc_countsOne .exc s c
  · exact ⟨hs.frame.phase, hs.frame.rxCount, hs.frame.rxBuf, hs.frame.lastTs, hs.frame.integrityOk, hs.frame.txIdx,
      hs.frame.emit, hs.frame.de, hs.frame.rxEn, hs.frame.slaveAddr, hs.frame.di, hs.frame.ireg, hs.frame.hreg,
      hs.frame.params, hs.frame.env⟩

theorem takesException_of_next {a f : Byte} {code : ExcCode} {s t : State} (h : takeException a f code s = .next t) :
    TakesException a f (excByte code) s t := by
  obtain ⟨t', ht', hs⟩ := takeException_ok a f code s
  rw [h] at ht'; cases ht'; exact hs

end Sys2Proof.Machine
end

