-- ==== Sys2Proof/Laws/Operands.lean ====
section
/-! SUPPORT. The laws of the data bytes of a Read Discrete Inputs reply, and of the two spellings of an exception's function byte. -/

namespace Sys2Proof.Machine

theorem ofBool_append_getLsbD : ∀ (b7 b6 b5 b4 b3 b2 b1 b0 : Bool) (k : Fin 8),
    (BitVec.ofBool b7 ++ BitVec.ofBool b6 ++ BitVec.ofBool b5 ++ BitVec.ofBool b4 ++ BitVec.ofBool b3 ++
      BitVec.ofBool b2 ++ BitVec.ofBool b1 ++ BitVec.ofBool b0 : Byte).getLsbD k =
    [b0, b1, b2, b3, b4, b5, b6, b7].getD k false := by decide +kernel

/-- Bit `k` of data byte `j`. -/
theorem dataByte_getLsbD (bit : Nat → Bool) (quantity j : Nat) {k : Nat} (hk : k < 8) :
    (dataByte bit quantity j).getLsbD k = dataBit bit quantity j k := by
  rw [dataByte, ofBool_append_getLsbD _ _ _ _ _ _ _ _ ⟨k, hk⟩]
  have : k = 0 ∨ k = 1 ∨ k = 2 ∨ k = 3 ∨ k = 4 ∨ k = 5 ∨ k = 6 ∨ k = 7 := by omega
  rcases this with rfl | rfl | rfl | rfl | rfl | rfl | rfl | rfl <;> rfl

@[simp] theorem dataBytes_length (bit : Nat → Bool) (quantity : Nat) :
    (dataBytes bit quantity).length = byteCount quantity := by
  simp [dataBytes]

theorem dataBytes_getElem? (bit : Nat → Bool) (quantity j : Nat) :
    (dataBytes bit quantity)[j]? = if j < byteCount quantity then some (dataByte bit quantity j) else none := by
  simp only [dataBytes, List.getElem?_map]
  split
  · rename_i h; rw [List.getElem?_range h]; rfl
  · rename_i h; simp [h]

/-- The low 7 bits of a function byte decide its exception form. -/
theorem excFunction7_setWidth : ∀ f : Byte, excFunction7 (f.setWidth 7) = excFunction f := by decide +kernel

theorem excFunction7_eq : ∀ f : BitVec 7, excFunction (excFunction7 f) = excFunction7 f := by decide +kernel

end Sys2Proof.Machine
end

