-- ==== Sys2Proof/Laws/Exec.lean ====
section
/-! SUPPORT. What the two table functions and `exec` can do, once for all forms: take an exception, commit a reply, or write one coil
and commit its echo. Later proofs split on these and cite the laws of `takeException` and `commit`. -/

namespace Sys2Proof.Machine

open Sys2Proof.Safety

theorem readDiscreteInputs_cases (a : Byte) (start quantity : Nat) (s : State) :
    (s.params.nInputs ≤ start ∧ readDiscreteInputs a start quantity s = takeException a 0x02#8 .illegalDataAddress s) ∨
    (start < s.params.nInputs ∧ s.params.nInputs < start + quantity ∧
      readDiscreteInputs a start quantity s = takeException a 0x02#8 .illegalDataValue s) ∨
    (start < s.params.nInputs ∧ start + quantity ≤ s.params.nInputs ∧
      readDiscreteInputs a start quantity s = commit (readInputsReply a start quantity s) s) := by
  unfold readDiscreteInputs
  split
  · exact .inl ⟨‹_›, rfl⟩
  · split
    · exact .inr (.inl ⟨by omega, ‹_›, rfl⟩)
    · exact .inr (.inr ⟨by omega, by omega, rfl⟩)

theorem writeSingleCoil_cases (a : Byte) (addr value : Word) (s : State) :
    (value ≠ 0x0000#16 ∧ value ≠ 0xFF00#16 ∧ writeSingleCoil a addr value s = takeException a 0x05#8 .illegalDataValue s) ∨
    ((value = 0x0000#16 ∨ value = 0xFF00#16) ∧ s.params.nCoils ≤ addr.toNat ∧
      writeSingleCoil a addr value s = takeException a 0x05#8 .illegalDataAddress s) ∨
    ((value = 0x0000#16 ∨ value = 0xFF00#16) ∧ addr.toNat < s.params.nCoils ∧
      writeSingleCoil a addr value s =
        commit (writeCoilReply a addr value) (s.setCoil (Table.set s.eng.coil addr.toNat (value == 0xFF00#16)))) := by
  unfold writeSingleCoil
  split
  · rename_i h; exact .inl ⟨h.1, h.2, rfl⟩
  · rename_i h
    have hv : value = 0x0000#16 ∨ value = 0xFF00#16 := by
      by_cases h0 : value = 0x0000#16
      · exact .inl h0
      · exact .inr (by_contra fun h1 => h ⟨h0, h1⟩)
    split
    · exact .inr (.inl ⟨hv, ‹_›, rfl⟩)
    · exact .inr (.inr ⟨hv, by omega, rfl⟩)

theorem readInputsReply_length (a : Byte) (start quantity : Nat) (s : State) :
    (readInputsReply a start quantity s).length = 3 + byteCount quantity := by
  simp only [readInputsReply, List.length_cons, dataBytes_length]; omega

/-- The three things an instruction can be: an exception, a commit, or the write of an existing coil with the commit of its echo. -/
inductive ExecShape (i : Instr) (s : State) : Result → Prop
  | exception (f : Byte) (code : ExcCode) : ExecShape i s (takeException i.address f code s)
  | reply (reply : List Byte) (first : reply[0]? = some i.address) (two : 2 ≤ reply.length)
      (fits : i.direction = .request → 3 ≤ reply.length ∧ reply.length ≤ 3 + byteCount s.params.nInputs) :
      ExecShape i s (commit reply s)
  | coil (c v : Word) (legal : v = 0x0000#16 ∨ v = 0xFF00#16) (inside : c.toNat < s.params.nCoils)
      (named : i = .wsc i.address (.fields c v) ∨ i = .wscOn i.address c ∨ i = .wscOff i.address c) :
      ExecShape i s (commit (writeCoilReply i.address c v) (s.setCoil (Table.set s.eng.coil c.toNat (v == 0xFF00#16))))

theorem execShape_writeSingleCoil {i : Instr} {c v : Word} (s : State)
    (named : i = .wsc i.address (.fields c v) ∨ i = .wscOn i.address c ∨ i = .wscOff i.address c) :
    ExecShape i s (writeSingleCoil i.address c v s) := by
  obtain ⟨-, -, h⟩ | ⟨-, -, h⟩ | ⟨hv, hc, h⟩ := writeSingleCoil_cases i.address c v s <;> rw [h]
  · exact .exception _ _
  · exact .exception _ _
  · exact .coil c v hv hc named

/-- Every instruction has one of the three shapes. -/
theorem exec_shape (i : Instr) (s : State) : ExecShape i s (exec i s) := by
  cases i with
  | rdi a body =>
    cases body with
    | malformed p => exact .exception _ _
    | fields x y =>
      show ExecShape (.rdi a (.fields x y)) s (readDiscreteInputs a x.toNat y.toNat s)
      obtain ⟨-, h⟩ | ⟨-, -, h⟩ | ⟨-, hq, h⟩ := readDiscreteInputs_cases a x.toNat y.toNat s <;> rw [h]
      · exact .exception _ _
      · exact .exception _ _
      · refine .reply _ rfl ?_ fun _ => ?_ <;> rw [readInputsReply_length]
        · omega
        · simp only [byteCount]; omega
  | wsc a body =>
    cases body with
    | malformed p => exact .exception _ _
    | fields c v => exact execShape_writeSingleCoil s (.inl rfl)
  | wscOn a c => exact execShape_writeSingleCoil (v := 0xFF00#16) s (.inr (.inl rfl))
  | wscOff a c => exact execShape_writeSingleCoil (v := 0x0000#16) s (.inr (.inr rfl))
  | illegal a f p => exact .exception _ _
  | rdiRsp a data => exact .reply (Instr.rdiRsp a data).bytes rfl (by simp [Instr.bytes]) (fun h => by cases h)
  | wscRsp a c v => exact .reply (Instr.wscRsp a c v).bytes rfl (by simp [Instr.bytes]) (fun h => by cases h)
  | exc a f code => exact .exception _ _

/-- A received frame that decodes is a request, and its address byte is the frame's first. -/
theorem decodeRequest_ok {frame : List Byte} {i : Instr} (h : decodeRequest frame = .ok i) :
    i.direction = .request ∧ frame[0]? = some i.address := by
  unfold decodeRequest at h
  split at h
  · split at h
    · cases h
    · split at h
      · cases h
      · cases h; unfold decodeRequestParts; split <;> [exact ⟨rfl, rfl⟩; (split <;> exact ⟨rfl, rfl⟩)]
  · cases h

end Sys2Proof.Machine
end

