-- ==== Sys2Proof/Laws/PerInstr.lean ====
section
/-! SUPPORT. Family `WireForm`: every well-formed instruction's frame has 4 to 256 bytes and passes the CRC comparison (R90, R93). -/

namespace Sys2Proof.Laws.WireForm

open Sys2Proof.Machine

/-- The frame of a well-formed instruction has a legal length and its own CRC. -/
def Statement (i : Instr) : Prop :=
  i.wf = true → 4 ≤ (encode i).length ∧ (encode i).length ≤ 256 ∧ crcMatches (encode i) = true

/-- The frame's length and CRC from the length of the bytes before the CRC. -/
theorem of_length {i : Instr} (h : i.wf = true → 2 ≤ i.bytes.length ∧ i.bytes.length ≤ 254) : Statement i := by
  intro hw
  obtain ⟨h1, h2⟩ := h hw
  simp only [encode, List.length_append, crcBytes_length, crcMatches_append_crcBytes, and_true]
  omega

theorem encodeBody_length {body : RequestBody} (h : body.wf = true) : (encodeBody body).length ≤ 252 := by
  cases body <;> simp_all [RequestBody.wf, encodeBody]

theorem rdi (a : Byte) (body : RequestBody) : Statement (.rdi a body) := by
  apply of_length
  intro hw
  have := encodeBody_length (body := body) hw
  simp only [Instr.bytes, List.length_cons]
  omega

theorem wsc (a : Byte) (body : RequestBody) : Statement (.wsc a body) := by
  apply of_length
  intro hw
  have := encodeBody_length (body := body) hw
  simp only [Instr.bytes, List.length_cons]
  omega

theorem wscOn (a : Byte) (coil : Word) : Statement (.wscOn a coil) := by
  apply of_length; simp [Instr.bytes]

theorem wscOff (a : Byte) (coil : Word) : Statement (.wscOff a coil) := by
  apply of_length; simp [Instr.bytes]

theorem illegal (a f : Byte) (payload : List Byte) : Statement (.illegal a f payload) := by
  apply of_length
  simp only [Instr.wf, Instr.bytes, Bool.and_eq_true, decide_eq_true_eq, maxPayload, List.length_cons]
  omega

theorem rdiRsp (a : Byte) (data : List Byte) : Statement (.rdiRsp a data) := by
  apply of_length
  simp only [Instr.wf, Instr.bytes, decide_eq_true_eq, maxByteCount, List.length_cons]
  omega

theorem wscRsp (a : Byte) (coil value : Word) : Statement (.wscRsp a coil value) := by
  apply of_length; simp [Instr.bytes]

theorem exc (a : Byte) (f : BitVec 7) (code : ExcCode) : Statement (.exc a f code) := by
  apply of_length; simp [Instr.bytes]

end Sys2Proof.Laws.WireForm
end

