-- ==== Sys2Proof/Laws/Table.lean ====
section
/-! SUPPORT. The laws of the bit tables: read after write, and the canonical form. -/

namespace Sys2Proof.Machine

theorem setWordBit_getLsbD {w : Word} {k j : Nat} {v : Bool} (hk : k < 16) :
    (setWordBit w k v).getLsbD j = if j = k then v else w.getLsbD j := by
  by_cases hj : j < 16
  · cases v <;> by_cases h : j = k <;>
      simp [setWordBit, BitVec.getLsbD_or, BitVec.getLsbD_and, hj, h] <;> omega
  · simp [BitVec.getLsbD_of_ge _ _ (Nat.le_of_not_lt hj), show j ≠ k by omega]

@[simp] theorem Table.length_set (t : List Word) (i : Nat) (v : Bool) : (Table.set t i v).length = t.length := by
  simp [Table.set]

/-- A write inside the storage is read back, and every other bit reads as before. -/
theorem Table.get_set {t : List Word} {i j : Nat} {v : Bool} (h : i / 16 < t.length) :
    Table.get (Table.set t i v) j = if j = i then v else Table.get t j := by
  unfold Table.get Table.set
  by_cases hw : j / 16 = i / 16
  · simp only [hw, List.getD_eq_getElem?_getD, List.getElem?_set_self h, Option.getD_some,
      setWordBit_getLsbD (Nat.mod_lt i (by decide : 16 > 0))]
    by_cases hb : j % 16 = i % 16
    · simp [show j = i by omega]
    · simp [hb, show j ≠ i by omega]
  · simp [List.getElem?_set_ne (Ne.symm hw), show j ≠ i by rintro rfl; exact hw rfl]

/-- The canonical form, said bit by bit. -/
theorem Table.wf_iff {n : Nat} {t : List Word} :
    Table.wf n t = true ↔ t.length = (n + 15) / 16 ∧ ∀ i, n ≤ i → Table.get t i = false := by
  simp only [Table.wf, Bool.and_eq_true, beq_iff_eq, List.all_eq_true, List.mem_range, Bool.or_eq_true, decide_eq_true_eq,
    Bool.not_eq_true']
  refine and_congr_right fun hl => ⟨fun h i hi => ?_, fun h i _ => ?_⟩
  · by_cases hb : i < 16 * t.length
    · exact (h i hb).resolve_left (by omega)
    · have : t.length ≤ i / 16 := by omega
      simp [Table.get, List.getElem?_eq_none this]
  · by_cases hi : i < n
    · exact .inl hi
    · exact .inr (h i (by omega))

/-- A write of an existing bit keeps the canonical form. -/
theorem Table.wf_set {n i : Nat} {t : List Word} {v : Bool} (ht : Table.wf n t = true) (hi : i < n) :
    Table.wf n (Table.set t i v) = true := by
  rw [Table.wf_iff] at ht ⊢
  obtain ⟨hl, hz⟩ := ht
  refine ⟨by simpa using hl, fun j hj => ?_⟩
  rw [Table.get_set (by omega), if_neg (by omega), hz j hj]

@[simp] theorem Table.get_empty (n i : Nat) : Table.get (emptyTable n) i = false := by
  unfold Table.get emptyTable
  simp only [List.getD_eq_getElem?_getD, List.getElem?_replicate]
  split <;> simp

@[simp] theorem Table.wf_empty (n : Nat) : Table.wf n (emptyTable n) = true :=
  Table.wf_iff.2 ⟨by simp [emptyTable], fun i _ => Table.get_empty n i⟩

end Sys2Proof.Machine
end

