-- ==== Sys2Proof/Laws/Step.lean ====
section
/-! SUPPORT. What the step does, arm by arm: one equation for each phase and sub-state, so that no later proof unfolds the step, and
what the host writes of one clock edge can change. -/

namespace Sys2Proof.Machine

open Sys2Proof.Safety

variable {s : State}

theorem charTimeout_iff {t : Time} : charTimeout t s = true ↔ s.params.t15.toNat ≤ (t - s.eng.lastTs).toNat := by
  unfold charTimeout elapsed; exact decide_eq_true_iff

theorem frameTimeout_iff {t : Time} : frameTimeout t s = true ↔ s.params.t35.toNat ≤ (t - s.eng.lastTs).toNat := by
  unfold frameTimeout elapsed; exact decide_eq_true_iff

/-! ### The receiver -/

theorem rxByte_disabled (h : s.eng.rxEn = false) (d : Byte) (perr ferr oerr : Bool) (t : Time) :
    rxByte d perr ferr oerr t s = s := by
  unfold rxByte; rw [h]; rfl

theorem rxByte_enabled (h : s.eng.rxEn = true) (d : Byte) (perr ferr oerr : Bool) (t : Time) :
    rxByte d perr ferr oerr t s = receiveByte d (perr || ferr || oerr) t s := by
  unfold rxByte; rw [if_pos h]

theorem receiveByte_init (h : s.eng.phase = .init) (d : Byte) (err : Bool) (t : Time) :
    receiveByte d err t s = lineError err s := by
  unfold receiveByte; rw [h]

theorem receiveByte_idle (h : s.eng.phase = .idle) (d : Byte) (err : Bool) (t : Time) :
    receiveByte d err t s = startFrame d err t s := by
  unfold receiveByte; rw [h]

theorem receiveByte_reception (h : s.eng.phase = .reception) (d : Byte) (err : Bool) (t : Time) :
    receiveByte d err t s =
      if charTimeout t s then intrude t (s.setPhase .waiting) else absorb d err t s := by
  unfold receiveByte; rw [h]

theorem receiveByte_intrudes (h : s.eng.phase = .waiting ∨ s.eng.phase = .processingResponse ∨
    s.eng.phase = .processingNoResponse ∨ s.eng.phase = .discard) (d : Byte) (err : Bool) (t : Time) :
    receiveByte d err t s = intrude t s := by
  unfold receiveByte; rcases h with h | h | h | h <;> rw [h]

theorem receiveByte_pending (h : s.eng.phase = .emission) (hp : s.eng.txPending = true) (d : Byte) (err : Bool) (t : Time) :
    receiveByte d err t s = lineError err s := by
  unfold receiveByte; rw [h]; exact if_pos hp

theorem receiveByte_emission (h : s.eng.phase = .emission) (hp : s.eng.txPending = false) (d : Byte) (err : Bool) (t : Time) :
    receiveByte d err t s = startFrame d err t (s.setPhase .idle) := by
  unfold receiveByte; rw [h]; exact if_neg (by rw [hp]; exact Bool.false_ne_true)

theorem absorb_room (h : s.eng.rxCount < Config.bufferCap) (d : Byte) (err : Bool) (t : Time) :
    absorb d err t s =
      (lineError err (s.setRx (Memory.write s.eng.rxBuf s.eng.rxCount d) (s.eng.rxCount + 1))).setLastTs t := by
  unfold absorb; rw [if_pos h]

theorem absorb_full (h : Config.bufferCap ≤ s.eng.rxCount) (d : Byte) (err : Bool) (t : Time) :
    absorb d err t s = (lineError err (inc .overrun (s.setIntegrity false))).setLastTs t := by
  unfold absorb; rw [if_neg (by omega)]

theorem startFrame_eq (d : Byte) (err : Bool) (t : Time) (s : State) :
    startFrame d err t s = { s with eng := { s.eng with
      phase := .reception, rxCount := 1, rxBuf := Memory.write s.eng.rxBuf 0 d, lastTs := t, integrityOk := !err } } := by
  unfold startFrame
  rw [absorb_room (by exact Nat.zero_lt_succ 255)]
  cases err <;> rfl

/-! ### The validator -/

theorem validate_reject (h : s.eng.integrityOk = false ∨ s.eng.rxCount ≤ 3 ∨
    ∃ frame, rxFrame s = .ok frame ∧ crcMatches frame = false) : validate s = .next (rejectFrame s) := by
  unfold validate
  split
  · rfl
  · rename_i hn
    obtain ⟨frame, hf, hc⟩ := h.elim (fun h => absurd (.inl h) hn) (·.elim (fun h => absurd (.inr h) hn) id)
    rw [hf]; exact if_neg (by rw [hc]; exact Bool.false_ne_true)

theorem validate_accept {frame : List Byte} (hi : s.eng.integrityOk = true) (hl : 3 < s.eng.rxCount)
    (hf : rxFrame s = .ok frame) (hc : crcMatches frame = true) :
    validate s = .next (filterAddress (frame.getD 0 0) (inc .busMsg s)) := by
  unfold validate
  rw [if_neg (by rw [hi]; simp; omega), hf]
  exact if_pos hc

theorem filterAddress_broadcast (s : State) : filterAddress 0 s = (inc .noResp s).setPhase .processingNoResponse := by
  unfold filterAddress; exact if_pos rfl

theorem filterAddress_unicast (h : s.eng.slaveAddr ≠ 0) :
    filterAddress s.eng.slaveAddr s = (inc .slaveMsg s).setPhase .processingResponse := by
  unfold filterAddress; rw [if_neg (by exact h)]; exact if_pos rfl

theorem filterAddress_foreign {a : Byte} (h0 : a ≠ 0) (h1 : a ≠ s.eng.slaveAddr) :
    filterAddress a s = s.setPhase .discard := by
  unfold filterAddress; rw [if_neg (by exact h0), if_neg h1]

/-- Everything the validator can do. -/
theorem validate_cases {t : State} (h : validate s = .next t) :
    t = rejectFrame s ∨ ∃ frame, rxFrame s = .ok frame ∧ s.eng.integrityOk = true ∧ 3 < s.eng.rxCount ∧
      crcMatches frame = true ∧ t = filterAddress (frame.getD 0 0) (inc .busMsg s) := by
  unfold validate at h
  split at h
  · cases h; exact .inl rfl
  · rename_i hn
    simp only [not_or, Bool.not_eq_false, Nat.not_le] at hn
    split at h
    · cases h
    · rename_i frame hf
      split at h
      · rename_i hc
        cases h; exact .inr ⟨frame, hf, hn.1, hn.2, hc, rfl⟩
      · cases h; exact .inl rfl

/-! ### The emitter -/

theorem emitArm_idle (h : s.eng.txPending = false) : emitArm s = .next (s.setPhase .idle) := by
  unfold emitArm; rw [if_neg (by rw [h]; exact Bool.false_ne_true)]; rfl

/-- Everything E_ARM can do. -/
theorem emitArm_cases {t : State} (h : emitArm s = .next t) :
    (s.eng.txPending = false ∧ t = s.setPhase .idle) ∨
    (s.eng.txPending = true ∧ ∃ reply m, txFrame s = .ok reply ∧
      writeBytes .tx s.eng.txBuf s.eng.txLen (crcBytes reply) = .ok m ∧
      t = (((s.setTx m (s.eng.txLen + 2)).setLine true false).setTxIdx 0).setEmit .send) := by
  unfold emitArm at h
  split at h
  · rename_i hp
    split at h
    · cases h
    · rename_i reply hr
      split at h
      · cases h
      · rename_i m hm
        cases h; exact .inr ⟨hp, reply, m, hr, hm, rfl⟩
  · rename_i hp
    cases h; exact .inl ⟨Bool.not_eq_true _ ▸ hp, rfl⟩

/-- Everything E_SEND can do. -/
theorem emitSend_cases {r : Bool} {t : State} (h : emitSend r s = .next t) :
    (r = false ∧ t = s) ∨
    ∃ v, r = true ∧ s.eng.txIdx < s.eng.txLen ∧ Memory.read s.eng.txBuf s.eng.txIdx = some v ∧
      t = ((send v s).setTxIdx (s.eng.txIdx + 1)).setEmit
        (if s.eng.txIdx + 1 = s.eng.txLen then .flush else s.eng.emit) := by
  unfold emitSend at h
  split at h
  · rename_i hr
    split at h
    · cases h
    · rename_i v hv
      obtain ⟨h1, h2⟩ := readCell_ok.1 hv
      refine .inr ⟨v, hr, h1, h2, ?_⟩
      split at h
      · rename_i he; cases h; rw [if_pos he]
      · rename_i he; cases h; rw [if_neg he]; rfl
  · rename_i hr
    cases h; exact .inl ⟨Bool.not_eq_true _ ▸ hr, rfl⟩

/-! ### The processing step -/

theorem engineStep_init (h : s.eng.phase = .init) (t : Time) (r f : Bool) : engineStep t r f s = .next (s.setPhase .idle) := by
  unfold engineStep; rw [h]

theorem engineStep_idle (h : s.eng.phase = .idle) (t : Time) (r f : Bool) : engineStep t r f s = .next s := by
  unfold engineStep; rw [h]

theorem engineStep_reception (h : s.eng.phase = .reception) (t : Time) (r f : Bool) :
    engineStep t r f s = .next (if charTimeout t s then s.setPhase .waiting else s) := by
  unfold engineStep; rw [h]

theorem engineStep_waiting (h : s.eng.phase = .waiting) (t : Time) (r f : Bool) : engineStep t r f s = validate s := by
  unfold engineStep; rw [h]

theorem engineStep_processing (h : s.eng.phase = .processingResponse ∨ s.eng.phase = .processingNoResponse) (t : Time)
    (r f : Bool) : engineStep t r f s = stepProcessing t s := by
  unfold engineStep; rcases h with h | h <;> rw [h]

theorem engineStep_discard (h : s.eng.phase = .discard) (t : Time) (r f : Bool) :
    engineStep t r f s = .next (if frameTimeout t s then s.setPhase .emission else s) := by
  unfold engineStep; rw [h]

theorem engineStep_emission (h : s.eng.phase = .emission) (t : Time) (r f : Bool) : engineStep t r f s = emitter r f s := by
  unfold engineStep; rw [h]

theorem emitter_arm (h : s.eng.emit = .arm) (r f : Bool) : emitter r f s = emitArm s := by
  unfold emitter; rw [h]

theorem emitter_send (h : s.eng.emit = .send) (r f : Bool) : emitter r f s = emitSend r s := by
  unfold emitter; rw [h]

theorem emitter_flush (h : s.eng.emit = .flush) (r f : Bool) : emitter r f s = .next (emitFlush f s) := by
  unfold emitter; rw [h]

theorem stepProcessing_early {t : Time} (h : frameTimeout t s = false) : stepProcessing t s = .next s := by
  unfold stepProcessing; rw [h]; rfl

theorem stepProcessing_abandon {t : Time} (h : frameTimeout t s = true) (hi : s.eng.integrityOk = false) :
    stepProcessing t s = .next (rejectFrame s) := by
  unfold stepProcessing; rw [h, hi]; rfl

theorem stepProcessing_dispatch {t : Time} (h : frameTimeout t s = true) (hi : s.eng.integrityOk = true) :
    stepProcessing t s = dispatch s := by
  unfold stepProcessing; rw [h, hi]; rfl

theorem dispatch_eq {frame : List Byte} {i : Instr} (hf : rxFrame s = .ok frame) (hd : decodeRequest frame = .ok i) :
    dispatch s = exec i s := by
  unfold dispatch fetch; rw [hf]; simp only [hd]

/-- Everything the dispatcher can do. -/
theorem dispatch_cases {t : State} (h : dispatch s = .next t) :
    ∃ frame i, rxFrame s = .ok frame ∧ decodeRequest frame = .ok i ∧ exec i s = .next t := by
  unfold dispatch fetch at h
  cases hf : rxFrame s with
  | error e => simp only [hf] at h; cases h
  | ok frame =>
    cases hd : decodeRequest frame with
    | error e => simp only [hf, hd] at h; cases h
    | ok i => simp only [hf, hd] at h; exact ⟨frame, i, rfl, hd, h⟩

/-! ### One input -/

theorem step_ok (h : s.params.ok = true) : step s = applyInput (nextInput s) (afterInput s) := by
  unfold step advance; rw [if_pos h]

theorem params_ok_of_step {t : State} (h : step s = .next t) : s.params.ok = true := by
  unfold step advance at h
  split at h
  · assumption
  · cases h

theorem step_cons {i : Input} {rest : List Input} (h : s.params.ok = true) (hi : s.env.inputs = i :: rest) :
    step s = applyInput i (s.setInputs rest) := by
  rw [step_ok h, nextInput, afterInput, hi]; rfl

theorem coreRun_succ (M : Host.Core) {n : Nat} {x y : M.State} (h : M.step x = .next y) : M.run (n + 1) x = M.run n y := by
  simp only [Host.Core.run, h]

theorem run_succ {n : Nat} {t : State} (h : step s = .next t) : core.run (n + 1) s = core.run n t := coreRun_succ core h

@[simp] theorem afterInput_params : (afterInput s).params = s.params := rfl
@[simp] theorem afterInput_eng : (afterInput s).eng = s.eng := rfl
@[simp] theorem afterInput_sent : (afterInput s).env.sent = s.env.sent := rfl

theorem hostSetInput_eq (i : Word) (v : Bool) (s : State) :
    hostSetInput i v s = s.setDi (if i.toNat < s.params.nInputs then Table.set s.eng.di i.toNat v else s.eng.di) := by
  unfold hostSetInput; split <;> rfl

theorem hostSetCoil_eq (i : Word) (v : Bool) (s : State) :
    hostSetCoil i v s = s.setCoil (if i.toNat < s.params.nCoils then Table.set s.eng.coil i.toNat v else s.eng.coil) := by
  unfold hostSetCoil; split <;> rfl

/-- What the host writes of one clock edge can change: the address and the two bit tables, each as its own operation says. -/
theorem hostWrites_eq (p : PortsIn) (s : State) :
    hostWrites p s = { s with eng := { s.eng with
      slaveAddr := if p.addrWe then p.addrWdata else s.eng.slaveAddr
      di := if p.diWe ∧ p.diWidx.toNat < s.params.nInputs then Table.set s.eng.di p.diWidx.toNat p.diWdata else s.eng.di
      coil := if p.coilWe ∧ p.coilWidx.toNat < s.params.nCoils then Table.set s.eng.coil p.coilWidx.toNat p.coilWdata
        else s.eng.coil } } := by
  unfold hostWrites
  simp only [hostSetAddr, hostSetInput_eq, hostSetCoil_eq]
  cases p.addrWe <;> cases p.diWe <;> cases p.coilWe <;>
    simp only [Bool.false_eq_true, if_true, if_false, true_and, false_and] <;> rfl

end Sys2Proof.Machine
end

