-- ==== Sys2Proof/Tests/Slice0.lean ====
section
/-! SUPPORT. Tests: expected results transcribed from `spec/` (the vectors V<n> of 95_test_vectors.md and the encodings of
30_encoding.md), the smoke tests of `WellFormed`, and for every statement with hypotheses a witness that meets them. -/

namespace Sys2Proof.Tests

open Sys2Proof.Machine Sys2Proof.Safety

set_option Elab.async false

/-! ### Small states -/

/-- A buffer whose first cells hold the given bytes. -/
def cells (bytes : List Byte) : List Host.Cell := (List.range bytes.length).zip bytes

/-- CFG-A after reset, in a phase, with the last byte received at a time. -/
def inPhase (p : Phase) (lastTs : Time) : State := (State.reset.setPhase p).setLastTs lastTs

/-- The same with a received frame. -/
def received (frame : List Byte) (p : Phase) (lastTs : Time) : State := (inPhase p lastTs).setRx (cells frame) frame.length

/-- EMISSION with a committed reply, the line not yet turned. -/
def replying (reply : List Byte) : State := ((inPhase .emission 1700).setTx (cells reply) reply.length).setTxPending true

/-- EMISSION with the line turned, sub-state `e` and index `i`. -/
def sending (frame : List Byte) (e : Emit) (i : Nat) : State := (((replying frame).setLine true false).setEmit e).setTxIdx i

/-- The state with the given inputs scheduled. -/
def scheduled (inputs : List Input) (s : State) : State := { s with env := { s.env with inputs := inputs } }

/-- The state with a coil set. -/
def withCoil (i : Nat) (s : State) : State := s.setCoil (Table.set s.eng.coil i true)

/-- The discrete inputs of pattern DI-A of 95_test_vectors.md. -/
def withInputsA (s : State) : State := s.setDi [0x810D]

/-- The outcome is a next state with the given property. -/
def goesTo (o : Result) (p : State → Bool) : Bool :=
  match o with
  | .next s => p s
  | .fault _ => false
  | .refused _ => false

/-- The counters in the order of 95_test_vectors.md. -/
def counts (s : State) : List Nat :=
  [s.eng.cnt.busMsg, s.eng.cnt.busErr, s.eng.cnt.exc, s.eng.cnt.slaveMsg, s.eng.cnt.noResp, s.eng.cnt.nak, s.eng.cnt.busy,
    s.eng.cnt.overrun].map BitVec.toNat

/-- A reply without CRC has been committed. -/
def committed (reply : List Byte) (s : State) : Bool :=
  s.eng.txBuf == cells reply && s.eng.txLen == reply.length && s.eng.txPending && s.eng.phase == .emission

/-- A good Write Single Coil: `WSC.ON 0x11, 1` (V90). -/
def wscFrame : List Byte := [0x11, 0x05, 0x00, 0x01, 0xFF, 0x00, 0xDF, 0x6A]

/-! ### Well-formedness: each check refuses an ill-formed term -/

theorem test_wf_rdi_body_of_four : (Instr.rdi 0x11 (.malformed [0, 0, 0, 2])).wf = false := by decide
theorem test_wf_wsc_body_too_long : (Instr.wsc 0x11 (.malformed (List.replicate 253 0))).wf = false := by decide +kernel
theorem test_wf_illegal_function_two : (Instr.illegal 0x11 0x02 []).wf = false := by decide
theorem test_wf_illegal_function_five : (Instr.illegal 0x11 0x05 [0]).wf = false := by decide
theorem test_wf_illegal_too_long : (Instr.illegal 0x11 0x41 (List.replicate 253 0x5A)).wf = false := by decide +kernel
theorem test_wf_reply_too_long : (Instr.rdiRsp 0x11 (List.replicate 251 0xFF)).wf = false := by decide +kernel
theorem test_wf_echo_value : (Instr.wscRsp 0x11 1 0x00FF).wf = false := by decide
theorem test_wf_longest : (Instr.illegal 0x11 0x41 (List.replicate 252 0x5A)).wf ∧
    (Instr.rdiRsp 0x11 (List.replicate 250 0xFF)).wf ∧ (Instr.rdi 0x11 (.malformed (List.replicate 252 0))).wf := by
  decide +kernel

/-! ### Decoding: words written out from the encodings of R94 to R98 and R111 -/

/-- V65, bit by bit: `aaaaaaaa 00000010 s q l h`. -/
theorem test_decode_rdi : decodeTableWord 64 0b0001000100000010000000000000111100000000000000011000101101011001 =
    some (.rdi 0x11 (.fields 15 1)) := by decide +kernel
theorem test_decode_rdi_malformed : decodeRequest [0x11, 0x02, 0x00, 0x00, 0x00, 0x01, 0x00, 0x1A, 0x73] =
    .ok (.rdi 0x11 (.malformed [0, 0, 0, 1, 0])) := by decide +kernel
/-- V99, bit by bit: `aaaaaaaa 00000101 c v l h`. -/
theorem test_decode_wsc : decodeTableWord 64 0b0001000100000101000000000001000000010010001101001100001111101000 =
    some (.wsc 0x11 (.fields 16 0x1234)) := by decide +kernel
theorem test_decode_wsc_malformed : decodeRequest [0x11, 0x05, 0x00, 0x01, 0xFF, 0x99, 0x1F] =
    .ok (.wsc 0x11 (.malformed [0x00, 0x01, 0xFF])) := by decide +kernel
/-- `WSC.ON 0x11, 4` and `WSC.OFF 0x11, 4` of program P2 decode to the core form they expand to. -/
theorem test_decode_wscOn : decodeTableWord 64 0x11050004FF00CF6B = some (Instr.wscOn 0x11 4).core := by decide +kernel
theorem test_decode_wscOff : decodeTableWord 64 0x1105000400008E9B = some (Instr.wscOff 0x11 4).core := by decide +kernel
/-- V112: `aaaaaaaa ffffffff payload l h`. -/
theorem test_decode_illegal : decodeTableWord 64 0b0001000100001000000000000000000010100101001101111101100000011101 =
    some (.illegal 0x11 0x08 [0x00, 0x00, 0xA5, 0x37]) := by decide +kernel
/-- V60's reply. -/
theorem test_decode_rdiRsp : decodeReply [0x11, 0x02, 0x02, 0x0D, 0x81, 0xBC, 0x8B] = .ok (.rdiRsp 0x11 [0x0D, 0x81]) := by
  decide +kernel
theorem test_decode_wscRsp : decodeReply [0x11, 0x05, 0x00, 0x01, 0x00, 0x00, 0x9E, 0x9A] = .ok (.wscRsp 0x11 1 0) := by
  decide +kernel
/-- V110's reply, the function byte `1fffffff`. -/
theorem test_decode_exc : decodeReply [0b00010001, 0b10000001, 0b00000001, 0x80, 0x55] = .ok (.exc 0x11 1 .illegalFunction) := by
  decide +kernel
theorem test_decode_refuses : decodeRequest [0x11, 0x02, 0x00] = .error .tooShort ∧
    decodeRequest (List.replicate 257 0x11) = .error .tooLong ∧
    decodeReply [0x11, 0x02, 0x02, 0x0D, 0xBC, 0x8B] = .error .replyLength ∧
    decodeReply [0x11, 0x03, 0x02, 0x0D, 0xBC, 0x8B] = .error .replyFunction ∧
    decodeReply [0x11, 0x05, 0x00, 0x01, 0x00, 0xFF, 0xDE, 0xDA] = .error .replyValue ∧
    decodeReply [0x11, 0x85, 0x04, 0x00, 0x00] = .error .exceptionCode := by decide +kernel
theorem test_encode_requests : encode (.rdi 0x11 (.fields 2 10)) = [0x11, 0x02, 0x00, 0x02, 0x00, 0x0A, 0x5B, 0x5D] ∧
    encode (.wscOn 0x11 1) = wscFrame ∧ encode (.wscOff 0x11 1) = [0x11, 0x05, 0x00, 0x01, 0x00, 0x00, 0x9E, 0x9A] ∧
    encode (.illegal 0x11 0x00 []) = [0x11, 0x00, 0x0D, 0xE0] := by decide +kernel
theorem test_encode_replies : encode (.rdiRsp 0x11 []) = [0x11, 0x02, 0x00, 0x20, 0xA5] ∧
    encode (.wscRsp 0x11 1 0xFF00) = wscFrame ∧
    encode (.exc 0x11 0x7F .illegalFunction) = [0x11, 0xFF, 0x01, 0xA1, 0xF5] := by decide +kernel

/-! ### The checksum -/

/-- `table_high` as R123 lists it. -/
def tableHighR123 : List Byte :=
  [0x00, 0xC1, 0x81, 0x40, 0x01, 0xC0, 0x80, 0x41, 0x01, 0xC0, 0x80, 0x41, 0x00, 0xC1, 0x81, 0x40] ++
  [0x01, 0xC0, 0x80, 0x41, 0x00, 0xC1, 0x81, 0x40, 0x00, 0xC1, 0x81, 0x40, 0x01, 0xC0, 0x80, 0x41] ++
  [0x01, 0xC0, 0x80, 0x41, 0x00, 0xC1, 0x81, 0x40, 0x00, 0xC1, 0x81, 0x40, 0x01, 0xC0, 0x80, 0x41] ++
  [0x00, 0xC1, 0x81, 0x40, 0x01, 0xC0, 0x80, 0x41, 0x01, 0xC0, 0x80, 0x41, 0x00, 0xC1, 0x81, 0x40] ++
  [0x01, 0xC0, 0x80, 0x41, 0x00, 0xC1, 0x81, 0x40, 0x00, 0xC1, 0x81, 0x40, 0x01, 0xC0, 0x80, 0x41] ++
  [0x00, 0xC1, 0x81, 0x40, 0x01, 0xC0, 0x80, 0x41, 0x01, 0xC0, 0x80, 0x41, 0x00, 0xC1, 0x81, 0x40] ++
  [0x00, 0xC1, 0x81, 0x40, 0x01, 0xC0, 0x80, 0x41, 0x01, 0xC0, 0x80, 0x41, 0x00, 0xC1, 0x81, 0x40] ++
  [0x01, 0xC0, 0x80, 0x41, 0x00, 0xC1, 0x81, 0x40, 0x00, 0xC1, 0x81, 0x40, 0x01, 0xC0, 0x80, 0x41] ++
  [0x01, 0xC0, 0x80, 0x41, 0x00, 0xC1, 0x81, 0x40, 0x00, 0xC1, 0x81, 0x40, 0x01, 0xC0, 0x80, 0x41] ++
  [0x00, 0xC1, 0x81, 0x40, 0x01, 0xC0, 0x80, 0x41, 0x01, 0xC0, 0x80, 0x41, 0x00, 0xC1, 0x81, 0x40] ++
  [0x00, 0xC1, 0x81, 0x40, 0x01, 0xC0, 0x80, 0x41, 0x01, 0xC0, 0x80, 0x41, 0x00, 0xC1, 0x81, 0x40] ++
  [0x01, 0xC0, 0x80, 0x41, 0x00, 0xC1, 0x81, 0x40, 0x00, 0xC1, 0x81, 0x40, 0x01, 0xC0, 0x80, 0x41] ++
  [0x00, 0xC1, 0x81, 0x40, 0x01, 0xC0, 0x80, 0x41, 0x01, 0xC0, 0x80, 0x41, 0x00, 0xC1, 0x81, 0x40] ++
  [0x01, 0xC0, 0x80, 0x41, 0x00, 0xC1, 0x81, 0x40, 0x00, 0xC1, 0x81, 0x40, 0x01, 0xC0, 0x80, 0x41] ++
  [0x01, 0xC0, 0x80, 0x41, 0x00, 0xC1, 0x81, 0x40, 0x00, 0xC1, 0x81, 0x40, 0x01, 0xC0, 0x80, 0x41] ++
  [0x00, 0xC1, 0x81, 0x40, 0x01, 0xC0, 0x80, 0x41, 0x01, 0xC0, 0x80, 0x41, 0x00, 0xC1, 0x81, 0x40]

/-- `table_low` as R123 lists it. -/
def tableLowR123 : List Byte :=
  [0x00, 0xC0, 0xC1, 0x01, 0xC3, 0x03, 0x02, 0xC2, 0xC6, 0x06, 0x07, 0xC7, 0x05, 0xC5, 0xC4, 0x04] ++
  [0xCC, 0x0C, 0x0D, 0xCD, 0x0F, 0xCF, 0xCE, 0x0E, 0x0A, 0xCA, 0xCB, 0x0B, 0xC9, 0x09, 0x08, 0xC8] ++
  [0xD8, 0x18, 0x19, 0xD9, 0x1B, 0xDB, 0xDA, 0x1A, 0x1E, 0xDE, 0xDF, 0x1F, 0xDD, 0x1D, 0x1C, 0xDC] ++
  [0x14, 0xD4, 0xD5, 0x15, 0xD7, 0x17, 0x16, 0xD6, 0xD2, 0x12, 0x13, 0xD3, 0x11, 0xD1, 0xD0, 0x10] ++
  [0xF0, 0x30, 0x31, 0xF1, 0x33, 0xF3, 0xF2, 0x32, 0x36, 0xF6, 0xF7, 0x37, 0xF5, 0x35, 0x34, 0xF4] ++
  [0x3C, 0xFC, 0xFD, 0x3D, 0xFF, 0x3F, 0x3E, 0xFE, 0xFA, 0x3A, 0x3B, 0xFB, 0x39, 0xF9, 0xF8, 0x38] ++
  [0x28, 0xE8, 0xE9, 0x29, 0xEB, 0x2B, 0x2A, 0xEA, 0xEE, 0x2E, 0x2F, 0xEF, 0x2D, 0xED, 0xEC, 0x2C] ++
  [0xE4, 0x24, 0x25, 0xE5, 0x27, 0xE7, 0xE6, 0x26, 0x22, 0xE2, 0xE3, 0x23, 0xE1, 0x21, 0x20, 0xE0] ++
  [0xA0, 0x60, 0x61, 0xA1, 0x63, 0xA3, 0xA2, 0x62, 0x66, 0xA6, 0xA7, 0x67, 0xA5, 0x65, 0x64, 0xA4] ++
  [0x6C, 0xAC, 0xAD, 0x6D, 0xAF, 0x6F, 0x6E, 0xAE, 0xAA, 0x6A, 0x6B, 0xAB, 0x69, 0xA9, 0xA8, 0x68] ++
  [0x78, 0xB8, 0xB9, 0x79, 0xBB, 0x7B, 0x7A, 0xBA, 0xBE, 0x7E, 0x7F, 0xBF, 0x7D, 0xBD, 0xBC, 0x7C] ++
  [0xB4, 0x74, 0x75, 0xB5, 0x77, 0xB7, 0xB6, 0x76, 0x72, 0xB2, 0xB3, 0x73, 0xB1, 0x71, 0x70, 0xB0] ++
  [0x50, 0x90, 0x91, 0x51, 0x93, 0x53, 0x52, 0x92, 0x96, 0x56, 0x57, 0x97, 0x55, 0x95, 0x94, 0x54] ++
  [0x9C, 0x5C, 0x5D, 0x9D, 0x5F, 0x9F, 0x9E, 0x5E, 0x5A, 0x9A, 0x9B, 0x5B, 0x99, 0x59, 0x58, 0x98] ++
  [0x88, 0x48, 0x49, 0x89, 0x4B, 0x8B, 0x8A, 0x4A, 0x4E, 0x8E, 0x8F, 0x4F, 0x8D, 0x4D, 0x4C, 0x8C] ++
  [0x44, 0x84, 0x85, 0x45, 0x87, 0x47, 0x46, 0x86, 0x82, 0x42, 0x43, 0x83, 0x41, 0x81, 0x80, 0x40]

/-- The two tables of R122 are the tables that R123 writes out. -/
theorem test_tables : (List.range 256).map (fun i => tableHigh (BitVec.ofNat 8 i)) = tableHighR123 ∧
    (List.range 256).map (fun i => tableLow (BitVec.ofNat 8 i)) = tableLowR123 := by decide +kernel
/-- R128 and section 2.1 of 95_test_vectors.md. -/
theorem test_crc : crc16 [0x31, 0x32, 0x33, 0x34, 0x35, 0x36, 0x37, 0x38, 0x39] = 0x4B37 ∧ crc16 [] = 0xFFFF ∧
    crc16 [0x00] = 0x40BF ∧ crc16 [0xFF] = 0x00FF ∧ crc16 [0x01, 0x03, 0x00, 0x00, 0x00, 0x01] = 0x0A84 ∧
    crcAcc [0x11] = { lo := 0x7F, hi := 0x4C } ∧ crcAcc [0x11, 0x02] = { lo := 0x8C, hi := 0x21 } := by decide +kernel

/-! ### Instructions, one step each -/

/-- V63 and V64. -/
theorem test_rdi_packs : goesTo (exec (.rdi 0x11 (.fields 2 10)) (withInputsA (inPhase .processingResponse 0)))
      (fun s => committed [0x11, 0x02, 0x02, 0x43, 0x00] s && counts s == [0, 0, 0, 0, 0, 0, 0, 0]) ∧
    goesTo (exec (.rdi 0x11 (.fields 8 8)) (withInputsA (inPhase .processingResponse 0))) (committed [0x11, 0x02, 0x01, 0x81]) := by
  decide +kernel
/-- V72, V73, V70, V77. -/
theorem test_rdi_errors : goesTo (exec (.rdi 0x11 (.fields 0xFFFF 0xFFFF)) (inPhase .processingResponse 0))
      (fun s => committed [0x11, 0x82, 0x02] s && counts s == [0, 0, 1, 0, 0, 0, 0, 0]) ∧
    goesTo (exec (.rdi 0x11 (.fields 1 0xFFFF)) (inPhase .processingResponse 0)) (committed [0x11, 0x82, 0x03]) ∧
    goesTo (exec (.rdi 0x11 (.fields 0 0)) (inPhase .processingResponse 0)) (committed [0x11, 0x02, 0x00]) ∧
    goesTo (exec (.rdi 0x00 (.fields 16 1)) (inPhase .processingNoResponse 0))
      (fun s => !s.eng.txPending && s.eng.txLen == 0 && counts s == [0, 0, 1, 0, 0, 0, 0, 0]) := by decide +kernel
/-- V91 and V102. -/
theorem test_wsc_writes : goesTo (exec (.wsc 0x11 (.fields 1 0)) (withCoil 1 (inPhase .processingResponse 0)))
      (fun s => committed [0x11, 0x05, 0x00, 0x01, 0x00, 0x00] s && s.eng.coil == [0x0000]) ∧
    goesTo (exec (.wsc 0x00 (.fields 2 0xFF00)) (inPhase .processingNoResponse 0))
      (fun s => !s.eng.txPending && s.eng.coil == [0x0004]) := by decide +kernel
/-- V99, V94, V100. -/
theorem test_wsc_errors : goesTo (exec (.wsc 0x11 (.fields 16 0x1234)) (inPhase .processingResponse 0))
      (fun s => committed [0x11, 0x85, 0x03] s && s.eng.coil == [0x0000]) ∧
    goesTo (exec (.wsc 0x11 (.fields 16 0xFF00)) (inPhase .processingResponse 0)) (committed [0x11, 0x85, 0x02]) ∧
    goesTo (exec (.wsc 0x11 (.malformed [0, 1, 0xFF])) (inPhase .processingResponse 0)) (committed [0x11, 0x85, 0x03]) := by
  decide +kernel
/-- V93 and its opposite. -/
theorem test_wscOn : goesTo (exec (.wscOn 0x11 15) (inPhase .processingResponse 0))
    (fun s => committed [0x11, 0x05, 0x00, 0x0F, 0xFF, 0x00] s && s.eng.coil == [0x8000]) := by decide +kernel
theorem test_wscOff : goesTo (exec (.wscOff 0x11 1) (withCoil 1 (inPhase .processingResponse 0)))
    (fun s => committed [0x11, 0x05, 0x00, 0x01, 0x00, 0x00] s && s.eng.coil == [0x0000]) := by decide +kernel
/-- V115 and V118. -/
theorem test_illegal : goesTo (exec (.illegal 0x11 0x82 [0x01]) (inPhase .processingResponse 0)) (committed [0x11, 0x82, 0x01]) ∧
    goesTo (exec (.illegal 0x00 0x03 [0, 0, 0, 1]) (inPhase .processingNoResponse 0))
      (fun s => !s.eng.txPending && counts s == [0, 0, 1, 0, 0, 0, 0, 0]) := by decide +kernel
/-- The replies of V60, V90 and V66, committed as such. -/
theorem test_rdiRsp : goesTo (exec (.rdiRsp 0x11 [0x0D, 0x81]) (inPhase .processingResponse 0))
    (committed [0x11, 0x02, 0x02, 0x0D, 0x81]) := by decide +kernel
theorem test_wscRsp : goesTo (exec (.wscRsp 0x11 1 0xFF00) (inPhase .processingResponse 0))
    (committed [0x11, 0x05, 0x00, 0x01, 0xFF, 0x00]) := by decide +kernel
theorem test_exc : goesTo (exec (.exc 0x11 2 .illegalDataValue) (inPhase .processingResponse 0))
    (fun s => committed [0x11, 0x82, 0x03] s && counts s == [0, 0, 1, 0, 0, 0, 0, 0]) := by decide +kernel

/-! ### Receiver, validator and emitter, one event each -/

/-- V4, V5, V6, V7. -/
theorem test_receiver :
    goesTo (applyEvent (.rxByte 0x11 true false false 1000) (inPhase .idle 0))
      (fun s => s.eng.phase == .reception && s.eng.rxBuf == [(0, 0x11)] && s.eng.rxCount == 1 && !s.eng.integrityOk) ∧
    goesTo (applyEvent (.rxByte 0x02 false false false 1749) (received [0x11] .reception 1000))
      (fun s => s.eng.rxBuf == [(0, 0x11), (1, 0x02)] && s.eng.lastTs == 1749 && s.eng.integrityOk) ∧
    goesTo (applyEvent (.rxByte 0x02 false false false 1750) (received [0x11] .reception 1000))
      (fun s => s.eng.phase == .waiting && s.eng.rxCount == 1 && s.eng.lastTs == 1750 && !s.eng.integrityOk) ∧
    goesTo (applyEvent (.rxByte 0xAA false false false 1010) (received (List.replicate 256 0xAA) .reception 1000))
      (fun s => s.eng.rxCount == 256 && !s.eng.integrityOk && counts s == [0, 0, 0, 0, 0, 0, 0, 1]) := by decide +kernel
/-- V8, V9, V19, V20: the inter-character silence, across the wrap of the time too. -/
theorem test_silence :
    goesTo (applyEvent (.step 2449 true true) (inPhase .reception 1700)) (·.eng.phase == .reception) ∧
    goesTo (applyEvent (.step 2450 true true) (inPhase .reception 1700)) (·.eng.phase == .waiting) ∧
    goesTo (applyEvent (.step 0x1ED true true) (inPhase .reception 0xFFFFFF00)) (·.eng.phase == .reception) ∧
    goesTo (applyEvent (.step 0x1EE true true) (inPhase .reception 0xFFFFFF00)) (·.eng.phase == .waiting) := by decide +kernel
/-- V35, V39, V40, V41. -/
theorem test_validator :
    goesTo (applyEvent (.step 2500 true true) (received [0x11, 0x05, 0x00, 0x01, 0xFF, 0x00, 0x6A, 0xDF] .waiting 1700))
      (fun s => s.eng.phase == .discard && counts s == [0, 1, 0, 0, 0, 0, 0, 0]) ∧
    goesTo (applyEvent (.step 2500 true true) (received [0x12, 0x05, 0x00, 0x01, 0xFF, 0x00, 0xDF, 0x59] .waiting 1700))
      (fun s => s.eng.phase == .discard && counts s == [1, 0, 0, 0, 0, 0, 0, 0]) ∧
    goesTo (applyEvent (.step 2500 true true) (received [0x00, 0x05, 0x00, 0x01, 0xFF, 0x00, 0xDC, 0x2B] .waiting 1700))
      (fun s => s.eng.phase == .processingNoResponse && counts s == [1, 0, 0, 0, 1, 0, 0, 0]) ∧
    goesTo (applyEvent (.step 2500 true true) (received wscFrame .waiting 1700))
      (fun s => s.eng.phase == .processingResponse && counts s == [1, 0, 0, 1, 0, 0, 0, 0]) := by decide +kernel
/-- V15. -/
theorem test_abandoned : goesTo (applyEvent (.step 19450 true true)
      ((received wscFrame .processingResponse 17700).setIntegrity false))
    (fun s => s.eng.phase == .discard && counts s == [0, 1, 0, 0, 0, 0, 0, 0] && s.eng.coil == [0] && !s.eng.txPending) := by
  decide +kernel
/-- Section 2.7: turning the line, the last byte, the release. -/
theorem test_emitter :
    goesTo (applyEvent (.step 3451 true true) (replying [0x11, 0x02, 0x01, 0x01]))
      (fun s => s.eng.txBuf == cells [0x11, 0x02, 0x01, 0x01, 0x64, 0x88] && s.eng.txLen == 6 && s.eng.de && !s.eng.rxEn &&
        s.eng.emit == .send && s.env.sent == []) ∧
    goesTo (applyEvent (.step 3459 true false) (sending [0x11, 0x02, 0x01, 0x01, 0x64, 0x88] .send 5))
      (fun s => s.eng.emit == .flush && s.eng.txIdx == 6 && s.env.sent == [{ byte := 0x88, de := true }]) ∧
    goesTo (applyEvent (.step 4100 true true) (sending [0x11, 0x02, 0x01, 0x01, 0x64, 0x88] .flush 6))
      (fun s => s.eng.phase == .idle && !s.eng.de && s.eng.rxEn && !s.eng.txPending && s.eng.txLen == 0 && s.eng.txIdx == 0) := by
  decide +kernel

/-! ### Host, clock, reset -/

/-- V131, V132, V134, V135. -/
theorem test_host :
    goesTo (applyEvent (.hostSetInput 3 true) (inPhase .idle 0)) (fun s => hostGetInput 3 s && s.eng.di == [0x0008]) ∧
    goesTo (applyEvent (.hostSetInput 16 true) (inPhase .idle 0)) (fun s => !hostGetInput 16 s && s.eng.di == [0]) ∧
    goesTo (applyEvent (.hostSetCoil 5 true) (inPhase .idle 0)) (fun s => hostGetCoil 5 s && !hostGetCoil 16 s) := by
  decide +kernel
/-- The port values of V141's cycle. -/
def dispatchCycle : PortsIn :=
  { nowUs := 3450, txReady := true, txFlushed := true, coilWe := true, coilWidx := 1, coilWdata := false, coilRidx := 1 }
/-- V141 and V142. -/
theorem test_clock :
    (portsOut dispatchCycle (withCoil 1 (received wscFrame .processingResponse 1700))).coilRdata = true ∧
    goesTo (clockEdge dispatchCycle (withCoil 1 (received wscFrame .processingResponse 1700))) (fun s => hostGetCoil 1 s) ∧
    (portsOut dispatchCycle (received wscFrame .processingResponse 1700)).coilRdata = false ∧
    goesTo (clockEdge dispatchCycle (received wscFrame .processingResponse 1700)) (fun s => hostGetCoil 1 s) := by decide +kernel
/-- V150: a reset in the middle of an emission is the reset state. -/
theorem test_reset : goesTo (applyEvent .reset (withCoil 1 ((sending wscFrame .send 3).setSlaveAddr 0x22)))
    (fun s => s.eng == Engine.reset Config.example && s.eng.slaveAddr == 0x11) := by decide +kernel

/-! ### The row's own words run as the first step after reset -/

theorem test_fetch_rdi : decodeTableWord 8 0x02 = some (.rdi 0 (.fields 0 0)) ∧
    goesTo (step (State.reset.withFetchWord 8 0x02)) (fun s => s.eng.phase == .emission && counts s == [0, 0, 0, 0, 0, 0, 0, 0]) := by
  decide +kernel
theorem test_fetch_wscOn : decodeTableWord 64 0x00050000FF000000 = some (.wsc 0 (.fields 0 0xFF00)) ∧
    goesTo (step (State.reset.withFetchWord 64 0x00050000FF000000)) (fun s => s.eng.coil == [0x0001]) := by decide +kernel
theorem test_fetch_illegal : decodeTableWord 8 0x00 = some (.illegal 0 0 [0, 0, 0, 0]) ∧
    goesTo (step (State.reset.withFetchWord 8 0x00)) (fun s => counts s == [0, 0, 1, 0, 0, 0, 0, 0]) := by decide +kernel

/-! ### Witnesses: states that meet the hypotheses of the statements, one theorem for each statement that has hypotheses -/

/-- A frame that reads has the given property. -/
def whenRead (frame : Except Fault (List Byte)) (p : List Byte → Bool) : Bool :=
  match frame with
  | .ok f => p f
  | .error _ => true

theorem of_whenRead {frame : Except Fault (List Byte)} {p : List Byte → Bool} {f : List Byte} (h : whenRead frame p = true)
    (hf : frame = .ok f) : p f = true := by subst hf; exact h

/-- An executable form of the invariant. -/
def invCheck (s : State) : Bool :=
  Memory.wf s.eng.rxBuf && Memory.wf s.eng.txBuf && decide (s.eng.rxCount ≤ Config.bufferCap) &&
  (List.range s.eng.rxCount).all (fun i => (Memory.read s.eng.rxBuf i).isSome) && decide (s.eng.txLen ≤ Config.bufferCap) &&
  (List.range s.eng.txLen).all (fun i => (Memory.read s.eng.txBuf i).isSome) && decide (s.eng.txIdx ≤ s.eng.txLen) &&
  (s.eng.rxEn == !s.eng.de) && (s.eng.de == (s.eng.emit != .arm)) &&
  decide (s.eng.emit ≠ .arm → s.eng.txPending = true) && decide (s.eng.txPending = true → s.eng.phase = .emission) &&
  decide (s.eng.txPending = false → s.eng.txLen = 0) && decide (s.eng.emit = .arm → s.eng.txIdx = 0) &&
  decide (s.eng.txPending = true → s.eng.emit = .arm → 3 ≤ s.eng.txLen ∧ s.eng.txLen ≤ 253) &&
  decide (s.eng.emit = .send → s.eng.txIdx < s.eng.txLen) &&
  (s.eng.emit == .arm || whenRead (txFrame s) fun f => decide (5 ≤ f.length) && crcMatches f) &&
  (!(s.eng.phase == .processingResponse || s.eng.phase == .processingNoResponse) ||
    decide (4 ≤ s.eng.rxCount) && whenRead (rxFrame s) crcMatches) &&
  decide (s.eng.phase = .processingResponse → Memory.read s.eng.rxBuf 0 ≠ some 0) &&
  decide (s.eng.txPending = true → Memory.read s.eng.txBuf 0 ≠ some 0) &&
  Table.wf s.params.nInputs s.eng.di && Table.wf s.params.nCoils s.eng.coil &&
  (s.eng.cnt.nak == 0) && (s.eng.cnt.busy == 0) && s.env.sent.all (fun x => x.de)

theorem inv_of_check {s : State} (h : invCheck s = true) : Inv s := by
  simp only [invCheck, Bool.and_eq_true, decide_eq_true_eq, List.all_eq_true, List.mem_range, beq_iff_eq] at h
  obtain ⟨⟨⟨⟨⟨⟨⟨⟨⟨⟨⟨⟨⟨⟨⟨⟨⟨⟨⟨⟨⟨⟨⟨h1, h2⟩, h3⟩, h4⟩, h5⟩, h6⟩, h7⟩, h8⟩, h9⟩, h10⟩, h11⟩, h12⟩, h13⟩, h14⟩, h15⟩, h16⟩, h17⟩,
    h18⟩, h19⟩, h20⟩, h21⟩, h22⟩, h23⟩, h24⟩ := h
  refine ⟨h1, h2, h3, h4, h5, h6, h7, h8, h9, h10, h11, h12, h13, h14, h15, fun he f hf => ?_, fun hp => ?_, h18, h19, h20,
    h21, h22, h23, h24⟩
  · rw [Bool.or_eq_true, beq_iff_eq, or_iff_right he] at h16
    simpa using of_whenRead h16 hf
  · rw [Bool.or_eq_true, Bool.not_eq_true', ← Bool.not_eq_true, Bool.or_eq_true, beq_iff_eq, beq_iff_eq, or_iff_right (not_not.2 hp),
      Bool.and_eq_true, decide_eq_true_eq] at h17
    exact ⟨h17.1, fun f hf => of_whenRead h17.2 hf⟩

/-- A good unicast frame past the silence, its `Step` scheduled. -/
def dispatching : State := scheduled [.event (.step 3450 true true)] (received wscFrame .processingResponse 1700)

/-- The same for a broadcast (V40). -/
def broadcasting : State :=
  scheduled [.event (.step 3450 true true), .event (.step 3451 true true)]
    (received [0x00, 0x05, 0x00, 0x01, 0xFF, 0x00, 0xDC, 0x2B] .processingNoResponse 1700)

/-- A byte about to be sent. -/
def sendingFirst : State := scheduled [.event (.step 3452 true false)] (sending [0x11, 0x85, 0x03, 0x03, 0x54] .send 0)

theorem witness_DecodeUndoesEncode : (Instr.rdi 0x11 (.malformed (List.replicate 252 0))).wf ∧
    (Instr.wsc 0 (.malformed [])).wf ∧ (Instr.rdi 0xFF (.fields 0xFFFF 0)).wf ∧ (Instr.wscOn 0 0xFFFF).wf ∧ (Instr.wscOff 1 0).wf ∧
    (Instr.illegal 0 0xFF []).wf ∧ (Instr.rdiRsp 0 []).wf ∧ (Instr.wscRsp 0 0 0xFF00).wf ∧ (Instr.exc 0 0x7F .illegalDataValue).wf := by
  decide +kernel
theorem witness_EncodeUndoesDecode :
    (decode .request wscFrame = .ok (.wsc 0x11 (.fields 1 0xFF00)) ∧ crcMatches wscFrame = true) ∧
    (decode .reply wscFrame = .ok (.wscRsp 0x11 1 0xFF00) ∧ crcMatches wscFrame = true) ∧
    (decode .reply [0x11, 0x82, 0x03, 0x01, 0x64] = .ok (.exc 0x11 2 .illegalDataValue) ∧
      crcMatches [0x11, 0x82, 0x03, 0x01, 0x64] = true) := by decide +kernel
theorem witness_FunctionByteSelectsForm : 2 ≤ (wscFrame.drop 2).length ∧ (wscFrame.drop 2).length ≤ 254 ∧
    (0x02 : Byte) = 0x02#8 ∧ (0x05 : Byte) = 0x05#8 ∧ (0x03 : Byte) ≠ 0x02#8 ∧ (0x03 : Byte) ≠ 0x05#8 := by decide +kernel
theorem witness_MaskedByteIsLost : (sending wscFrame .send 0).eng.rxEn = false := by decide +kernel
theorem witness_ByteInIdleStartsFrame : (inPhase .idle 0).eng.rxEn = true ∧ (inPhase .idle 0).eng.phase = .idle := by decide +kernel
theorem witness_ReceptionAbsorbsByte (s : State)
    (h : s = received (List.replicate 255 0xAA) .reception 1000 ∨ s = received (List.replicate 256 0xAA) .reception 1000) :
    s.eng.rxEn = true ∧ s.eng.phase = .reception ∧ (1749#32 - s.eng.lastTs).toNat < s.params.t15.toNat ∧
    (s.eng.rxCount < 256 ∨ 256 ≤ s.eng.rxCount) := by
  rcases h with rfl | rfl <;> decide +kernel
theorem witness_IntrudingByteMarksFrame : (inPhase .reception 1000).eng.rxEn = true ∧ (inPhase .reception 1000).eng.phase = .reception ∧
    (inPhase .reception 1000).params.t15.toNat ≤ (1750#32 - (inPhase .reception 1000).eng.lastTs).toNat ∧
    (inPhase .waiting 0).eng.rxEn = true ∧ (inPhase .waiting 0).eng.phase = .waiting := by decide +kernel
theorem witness_ByteOutsideTheFrame : (inPhase .init 0).eng.rxEn = true ∧ (inPhase .init 0).eng.phase = .init ∧
    (replying [0x11]).eng.rxEn = true ∧ (replying [0x11]).eng.phase = .emission ∧ (replying [0x11]).eng.txPending = true ∧
    (inPhase .emission 0).eng.rxEn = true ∧ (inPhase .emission 0).eng.phase = .emission ∧
    (inPhase .emission 0).eng.txPending = false := by decide +kernel
theorem witness_LineErrorClearsIntegrity : (inPhase .discard 0).eng.rxEn = true ∧
    (false = true ∨ false = true ∨ true = true) := by decide +kernel
theorem witness_ElapsedIsTrueInterval : (inPhase .idle (BitVec.ofNat 32 4294967040)).eng.lastTs = BitVec.ofNat 32 4294967040 ∧
    2 ^ 32 - 1 < 2 ^ 32 := by decide +kernel
theorem witness_StepInIdleAndReception : (inPhase .idle 0).eng.phase = .idle ∧ (inPhase .reception 0).eng.phase = .reception := by decide +kernel
theorem witness_StepInIdleAndReception_leaves :
    goesTo (applyEvent (.rxByte 0x11 false false false 1000) (inPhase .idle 0)) (fun u => u.eng.phase != .idle) := by decide +kernel
theorem witness_InitAndDiscardSteps : (inPhase .init 0).eng.phase = .init ∧ (inPhase .discard 0).eng.phase = .discard := by decide +kernel
/-- V36, V31 (at the boundary of 3 bytes), V34. -/
theorem witness_BadFrameIsDiscarded :
    ((received wscFrame .waiting 0).setIntegrity false).eng.phase = .waiting ∧
    ((received wscFrame .waiting 0).setIntegrity false).eng.integrityOk = false ∧
    (received [0x11, 0x02, 0x00] .waiting 0).eng.rxCount ≤ 3 ∧
    ∃ frame, rxFrame (received [0x11, 0x05, 0x00, 0x01, 0xFF, 0x00, 0xDE, 0x6A] .waiting 0) = .ok frame ∧
      (crc16 (frame.take (frame.length - 2))).toNat ≠
        (frame.getD (frame.length - 2) 0).toNat + 256 * (frame.getD (frame.length - 1) 0).toNat :=
  ⟨by decide +kernel, by decide +kernel, by decide +kernel, [0x11, 0x05, 0x00, 0x01, 0xFF, 0x00, 0xDE, 0x6A], by decide +kernel, by decide +kernel⟩
/-- V40, V41, V39, the last two at the shortest frame (V33, 4 bytes) too. -/
theorem witness_GoodFrameIsFilteredByAddress (frame : List Byte)
    (h : frame = [0x00, 0x05, 0x00, 0x01, 0xFF, 0x00, 0xDC, 0x2B] ∨ frame = wscFrame ∨
      frame = [0x12, 0x05, 0x00, 0x01, 0xFF, 0x00, 0xDF, 0x59] ∨ frame = [0x11, 0x02, 0x8C, 0x21]) :
    (received frame .waiting 0).eng.phase = .waiting ∧ (received frame .waiting 0).eng.integrityOk = true ∧
    3 < (received frame .waiting 0).eng.rxCount ∧ rxFrame (received frame .waiting 0) = .ok frame ∧
    (crc16 (frame.take (frame.length - 2))).toNat =
      (frame.getD (frame.length - 2) 0).toNat + 256 * (frame.getD (frame.length - 1) 0).toNat ∧
    (frame[0]? = some 0 ∨ (frame[0]? ≠ some 0 ∧ frame[0]? = some (received frame .waiting 0).eng.slaveAddr) ∨
      (frame[0]? ≠ some 0 ∧ frame[0]? ≠ some (received frame .waiting 0).eng.slaveAddr)) := by
  rcases h with rfl | rfl | rfl | rfl <;> decide +kernel
/-- V39 as the first of three steps, the second exactly at the inter-frame silence. -/
theorem witness_ForeignFrameIsDropped (s : State) (h : s = scheduled
      [.event (.step 2500 true true), .event (.step 3450 true true), .event (.step 3451 false false)]
      (received [0x12, 0x05, 0x00, 0x01, 0xFF, 0x00, 0xDF, 0x59] .waiting 1700)) :
    s.params.ok = true ∧ s.eng.phase = .waiting ∧ s.eng.integrityOk = true ∧ 3 < s.eng.rxCount ∧
    rxFrame s = .ok [0x12, 0x05, 0x00, 0x01, 0xFF, 0x00, 0xDF, 0x59] ∧
    crcMatches [0x12, 0x05, 0x00, 0x01, 0xFF, 0x00, 0xDF, 0x59] = true ∧
    ([0x12, 0x05] : List Byte)[0]? ≠ some 0 ∧ ([0x12, 0x05] : List Byte)[0]? ≠ some s.eng.slaveAddr ∧
    s.eng.txPending = false ∧ s.eng.emit = .arm ∧ s.params.t35.toNat ≤ (3450#32 - s.eng.lastTs).toNat ∧
    s.env.inputs = .event (.step 2500 true true) :: .event (.step 3450 true true) :: .event (.step 3451 false false) :: [] := by
  subst h; decide +kernel
/-- V14, V15 and the dispatch of V90. -/
theorem witness_ProcessingWaitsForSilence :
    dispatching.eng.phase = .processingResponse ∧ (3449#32 - dispatching.eng.lastTs).toNat < dispatching.params.t35.toNat ∧
    dispatching.params.t35.toNat ≤ (3450#32 - dispatching.eng.lastTs).toNat ∧
    (dispatching.setIntegrity false).eng.integrityOk = false ∧ dispatching.eng.integrityOk = true ∧
    rxFrame dispatching = .ok wscFrame ∧ decodeRequest wscFrame = .ok (.wsc 0x11 (.fields 1 0xFF00)) := by decide +kernel
theorem witness_StepTakesNextInput : State.reset.params.ok = true ∧ State.reset.env.inputs = [] ∧
    dispatching.params.ok = true ∧ dispatching.env.inputs = .event (.step 3450 true true) :: [] := by decide +kernel
theorem witness_StepRunsDecodedRequest : dispatching.params.ok = true ∧
    dispatching.env.inputs = .event (.step 3450 true true) :: [] ∧
    (dispatching.eng.phase = .processingResponse ∨ dispatching.eng.phase = .processingNoResponse) ∧
    dispatching.params.t35.toNat ≤ (3450#32 - dispatching.eng.lastTs).toNat ∧ dispatching.eng.integrityOk = true ∧
    rxFrame dispatching = .ok wscFrame ∧ decodeRequest wscFrame = .ok (.wsc 0x11 (.fields 1 0xFF00)) := by decide +kernel
/-- V64: the run ends at the last bit. -/
theorem witness_ReadInputsAnswersPackedBits : State.reset.params.ok = true ∧ (8#16).toNat < State.reset.params.nInputs ∧
    (8#16).toNat + (8#16).toNat ≤ State.reset.params.nInputs := by decide +kernel
/-- V66: one past the end. -/
theorem witness_ReadInputsPastEndIsIllegalData : (8#16).toNat < State.reset.params.nInputs ∧
    State.reset.params.nInputs < (8#16).toNat + (9#16).toNat := by decide +kernel
/-- V69 and V97. -/
theorem witness_DecidedRequestErrors : State.reset.params.nInputs ≤ (16#16).toNat ∧
    0xFF01#16 ≠ 0x0000#16 ∧ 0xFF01#16 ≠ 0xFF00#16 := by decide +kernel
/-- V93: the last coil, by each of the three forms. -/
theorem witness_WriteCoilSetsLevelAndEchoes : Table.wf State.reset.params.nCoils State.reset.eng.coil = true ∧
    (be16 0xFF 0x00 = 0x0000#16 ∨ be16 0xFF 0x00 = 0xFF00#16) ∧ (be16 0x00 0x00 = 0x0000#16 ∨ be16 0x00 0x00 = 0xFF00#16) ∧
    (be16 0x00 0x0F).toNat < State.reset.params.nCoils := by decide +kernel
/-- V94: the first address beyond the table. -/
theorem witness_WriteCoilBadAddressIsIllegalAddress : (0xFF00#16 = 0x0000#16 ∨ 0xFF00#16 = 0xFF00#16) ∧
    State.reset.params.nCoils ≤ (16#16).toNat := by decide +kernel
theorem witness_ReplyFormsAreCommitted : (List.replicate 250 (0xFF : Byte)).length ≤ 250 := by decide +kernel
theorem witness_RequestRunsAsItsReply : State.reset.params.ok = true ∧ (Instr.wscOn 0x11 1).direction = .request := by decide +kernel
theorem witness_InstructionFrame : Table.wf dispatching.params.nCoils dispatching.eng.coil = true ∧
    goesTo (exec (.wsc 0x11 (.fields 1 0xFF00)) dispatching) (fun t => t.eng.txLen ≤ 6) ∧
    broadcasting.eng.phase ≠ .processingResponse := by decide +kernel
theorem witness_EveryInstructionCompletes : State.reset.params.ok = true ∧
    (Instr.illegal 0x11 0x41 (List.replicate 252 0x5A)).wf = true := by decide +kernel
theorem witness_ExchangeEndsInIdle : (inPhase .emission 0).eng.phase = .emission ∧ (inPhase .emission 0).eng.emit = .arm ∧
    (inPhase .emission 0).eng.txPending = false ∧ (sending wscFrame .flush 8).eng.phase = .emission ∧
    (sending wscFrame .flush 8).eng.emit = .flush := by decide +kernel
/-- At the longest reply that fits with its CRC. -/
theorem witness_ArmAppendsCrcAndTurnsLine (s : State) (h : s = replying (List.replicate 254 0x11)) :
    s.eng.phase = .emission ∧ s.eng.emit = .arm ∧ s.eng.txPending = true ∧ txFrame s = .ok (List.replicate 254 0x11) ∧
    s.eng.txLen ≤ 254 := by subst h; decide +kernel
/-- The last byte (7) and one before it (6). -/
theorem witness_SendHandsOverOneByte (i : Nat) (h : i = 6 ∨ i = 7) :
    (sending wscFrame .send i).eng.phase = .emission ∧ (sending wscFrame .send i).eng.emit = .send ∧
    (sending wscFrame .send i).eng.txIdx < (sending wscFrame .send i).eng.txLen ∧
    Memory.read (sending wscFrame .send i).eng.txBuf (sending wscFrame .send i).eng.txIdx = wscFrame[i]? := by
  rcases h with rfl | rfl <;> decide +kernel
theorem witness_EmissionSendsWholeFrame (s : State)
    (h : s = scheduled (readySteps [1, 2, 3, 4, 5, 6, 7] ++ []) (replying [0x11, 0x85, 0x03])) :
    s.params.ok = true ∧ s.eng.phase = .emission ∧ s.eng.emit = .arm ∧ s.eng.txPending = true ∧
    txFrame s = .ok [0x11, 0x85, 0x03] ∧ ([0x11, 0x85, 0x03] : List Byte).length ≤ 254 ∧
    ([1, 2, 3, 4, 5, 6, 7] : List Time).length = ([0x11, 0x85, 0x03] : List Byte).length + 4 ∧
    s.env.inputs = readySteps [1, 2, 3, 4, 5, 6, 7] ++ [] := by subst h; decide +kernel
theorem witness_WriteCoilExchangeEchoesRequest (s : State)
    (h : s = scheduled (readySteps (3450 :: List.replicate 10 3500) ++ []) (received wscFrame .processingResponse 1700)) :
    s.params.ok = true ∧ Table.wf s.params.nCoils s.eng.coil = true ∧ s.eng.phase = .processingResponse ∧
    s.eng.integrityOk = true ∧ s.eng.emit = .arm ∧ rxFrame s = .ok wscFrame ∧ crcMatches wscFrame = true ∧
    decodeRequest wscFrame = .ok (.wsc 0x11 (.fields 1 0xFF00)) ∧ (0xFF00#16 = 0x0000#16 ∨ 0xFF00#16 = 0xFF00#16) ∧
    (1#16).toNat < s.params.nCoils ∧ s.params.t35.toNat ≤ (3450#32 - s.eng.lastTs).toNat ∧
    (List.replicate 10 (3500 : Time)).length = 10 ∧ s.env.inputs = readySteps (3450 :: List.replicate 10 3500) ++ [] := by
  subst h; decide +kernel
theorem witness_BroadcastTakesEffectUnanswered : Inv broadcasting ∧ broadcasting.params.ok = true ∧
    broadcasting.eng.phase = .processingNoResponse ∧ broadcasting.eng.integrityOk = true ∧
    broadcasting.params.t35.toNat ≤ (3450#32 - broadcasting.eng.lastTs).toNat ∧
    rxFrame broadcasting = .ok [0x00, 0x05, 0x00, 0x01, 0xFF, 0x00, 0xDC, 0x2B] ∧
    broadcasting.env.inputs = .event (.step 3450 true true) :: .event (.step 3451 true true) :: [] ∧
    decodeRequest [0x00, 0x05, 0x00, 0x01, 0xFF, 0x00, 0xDC, 0x2B] = .ok (.wsc 0x00 (.fields 1 0xFF00)) ∧
    (1#16).toNat < broadcasting.params.nCoils :=
  ⟨inv_of_check (by decide +kernel), by decide +kernel⟩
/-- The last input (15) and the first index beyond the table (16). -/
theorem witness_HostInputReadsBack : Table.wf (inPhase .idle 0).params.nInputs (inPhase .idle 0).eng.di = true ∧
    (15#16).toNat < (inPhase .idle 0).params.nInputs ∧ (inPhase .idle 0).params.nInputs ≤ (16#16).toNat := by decide +kernel
theorem witness_HostCoilReadsBack : Table.wf (inPhase .idle 0).params.nCoils (inPhase .idle 0).eng.coil = true ∧
    (15#16).toNat < (inPhase .idle 0).params.nCoils ∧ (inPhase .idle 0).params.nCoils ≤ (16#16).toNat := by decide +kernel
theorem witness_HostCoilReadsBack_ports : dispatchCycle.coilWe = true ∧ dispatchCycle.coilWidx = 1#16 ∧
    dispatchCycle.coilWdata = false := by decide
theorem witness_ClockEdgeOrder (p : PortsIn) (h : p = { nowUs := 5, rst := true }) (q : PortsIn)
    (hq : q = { nowUs := 5, rxValid := true }) :
    p.rst = true ∧ (q.rst = false ∧ (inPhase .idle 0).eng.rxEn = true ∧ q.rxValid = true) ∧
    (dispatchCycle.rst = false ∧ ((inPhase .idle 0).eng.rxEn = false ∨ dispatchCycle.rxValid = false)) := by
  subst h hq; decide +kernel
/-- V142. -/
theorem witness_DispatchWinsOverHostWrite :
    Table.wf dispatching.params.nCoils dispatching.eng.coil = true ∧ dispatchCycle.rst = false ∧ dispatchCycle.rxValid = false ∧
    dispatchCycle.coilWe = true ∧ dispatchCycle.coilWidx = 1 ∧ dispatchCycle.coilRidx = 1 ∧
    dispatching.eng.phase = .processingResponse ∧
    dispatching.params.t35.toNat ≤ (dispatchCycle.nowUs - dispatching.eng.lastTs).toNat ∧ dispatching.eng.integrityOk = true ∧
    rxFrame dispatching = .ok wscFrame ∧ decodeRequest wscFrame = .ok (.wsc 0x11 (.fields 1 0xFF00)) ∧
    (1#16).toNat < dispatching.params.nCoils := by decide +kernel
theorem witness_EveryStepKeepsInvariant : Inv dispatching ∧ goesTo (step dispatching) (fun t => t.eng.phase == .emission) ∧
    Inv sendingFirst ∧ goesTo (step sendingFirst) (fun t => t.eng.txIdx == 1) :=
  ⟨inv_of_check (by decide +kernel), by decide +kernel, inv_of_check (by decide +kernel), by decide +kernel⟩
theorem witness_NoStepStops : Inv State.reset ∧ State.reset.params.ok = true ∧ Inv broadcasting ∧ broadcasting.params.ok = true :=
  ⟨inv_of_check (by decide +kernel), by decide +kernel, inv_of_check (by decide +kernel), by decide +kernel⟩
theorem witness_PhaseMovesExactlyAsTabled :
    goesTo (applyEvent (.step 3450 true true) dispatching) (fun t => t.eng.phase != dispatching.eng.phase) ∧
    Inv dispatching ∧ dispatching.params.ok = true ∧ PhaseEdge dispatching (.step 3450 true true) .emission :=
  ⟨by decide +kernel, inv_of_check (by decide +kernel), by decide +kernel,
    .dispatched _ _ _ (.inl (by decide +kernel)) (by decide +kernel) (by decide +kernel)⟩
/-- Every row of the table of R23, at the boundary of its condition: a state with the invariant, the event, and the phase reached. -/
def phaseRows : List (State × Event × Phase) :=
  [(sendingFirst, .reset, .init),
    (State.reset, .step 0 false false, .idle),
    (inPhase .idle 0, .rxByte 0x11 true false false 1000, .reception),
    (received [0x11] .reception 1000, .step 1750 true true, .waiting),
    (received [0x11] .reception 1000, .rxByte 0x02 false false false 1750, .waiting),
    ((received wscFrame .waiting 1700).setIntegrity false, .step 2500 true true, .discard),
    (received [0x11, 0x02, 0x00] .waiting 1700, .step 2500 true true, .discard),
    (received [0x11, 0x02, 0x00, 0x00] .waiting 1700, .step 2500 true true, .discard)] ++
  [(received [0x12, 0x05, 0x00, 0x01, 0xFF, 0x00, 0xDF, 0x59] .waiting 1700, .step 2500 true true, .discard),
    (received wscFrame .waiting 1700, .step 2500 true true, .processingResponse),
    (received [0x00, 0x05, 0x00, 0x01, 0xFF, 0x00, 0xDC, 0x2B] .waiting 1700, .step 2500 true true, .processingNoResponse),
    (dispatching, .step 3450 true true, .emission),
    (broadcasting, .step 3450 true true, .emission),
    (dispatching.setIntegrity false, .step 3450 true true, .discard),
    (broadcasting.setIntegrity false, .step 3450 true true, .discard)] ++
  [(inPhase .discard 1700, .step 3450 true true, .emission),
    (inPhase .emission 1700, .step 3451 true true, .idle),
    (sending [0x11, 0x85, 0x03, 0x03, 0x54] .flush 5, .step 4100 false true, .idle),
    (inPhase .emission 1700, .rxByte 0x11 false false false 3451, .reception)]
theorem witness_PhaseMovesExactlyAsTabled_rows : phaseRows.all (fun (s, e, q) =>
    invCheck s && s.params.ok && goesTo (applyEvent e s) (fun t => t.eng.phase == q)) = true := by decide +kernel
theorem witness_CountersNeverFall : goesTo (step dispatching) (fun _ => true) ∧ resets (nextInput dispatching) = false := by
  decide +kernel
theorem witness_CoilsChangeOnlyOnCommand : Table.wf dispatching.params.nCoils dispatching.eng.coil = true ∧
    goesTo (step dispatching) (fun t => Table.get t.eng.coil 1 != Table.get dispatching.eng.coil 1) ∧
    resets (nextInput dispatching) = false ∧ hostWritesCoil 1 (nextInput dispatching) = false := by decide +kernel
theorem witness_InputsAndAddressChangeOnlyByHost : goesTo (step dispatching) (fun _ => true) ∧
    resets (nextInput dispatching) = false ∧ Table.wf dispatching.params.nInputs dispatching.eng.di = true ∧
    hostWritesInput 0 (nextInput dispatching) = false ∧ hostWritesAddr (nextInput dispatching) = false := by decide +kernel
theorem witness_FrameIsImmutableAfterReception (s : State)
    (h : s = scheduled [.event (.rxByte 0x55 false false false 1800)] (received wscFrame .waiting 1700)) :
    goesTo (step s) (fun _ => true) ∧ resets (nextInput s) = false ∧ s.eng.phase = .waiting := by
  subst h; decide +kernel
theorem witness_StubsAndParametersAreConstant : goesTo (step broadcasting) (fun _ => true) ∧
    resets (nextInput broadcasting) = false := by decide +kernel
theorem witness_BytesLeaveOnlyWhileDriving : Inv sendingFirst ∧
    goesTo (step sendingFirst) (fun t => t.env.sent == [{ byte := 0x11, de := true }]) :=
  ⟨inv_of_check (by decide +kernel), by decide +kernel⟩
theorem witness_NoReplyToBroadcastAddress : Inv sendingFirst ∧ sendingFirst.eng.txIdx = 0 ∧
    goesTo (step sendingFirst) (fun t => t.env.sent == sendingFirst.env.sent ++ [{ byte := 0x11, de := true }]) :=
  ⟨inv_of_check (by decide +kernel), by decide +kernel, by decide +kernel⟩
/-- Two states with different stale cells. -/
theorem witness_StaleCellsAreNeverRead :
    SameButStale ((inPhase .reception 0).setRx (cells [0x11, 0x22]) 1) ((inPhase .reception 0).setRx (cells [0x11, 0x33, 0x44]) 1) ∧
    (inPhase .reception 0).setRx (cells [0x11, 0x22]) 1 ≠ (inPhase .reception 0).setRx (cells [0x11, 0x33, 0x44]) 1 :=
  ⟨⟨by decide +kernel, by decide +kernel, by decide +kernel, by decide +kernel⟩, by decide +kernel⟩

end Sys2Proof.Tests
end

section
/-! The two ways a step begins: which input it takes, and the configurations it refuses. -/

namespace Sys2Proof

/-- The constraints of R9 and R11, one by one. -/
theorem Params.ok_iff {p : Params} : p.ok = true ↔
    p.nInputs ≤ 2000 ∧ p.nCoils ≤ 65536 ∧ 0 < p.t15.toNat ∧ p.t15.toNat ≤ p.t35.toNat ∧ p.t35.toNat < 2 ^ 31 := by
  simp only [Params.ok, Bool.and_eq_true, decide_eq_true_eq, and_assoc]

theorem Params.nInputs_le {p : Params} (h : p.ok = true) : p.nInputs ≤ 2000 := (Params.ok_iff.1 h).1

end Sys2Proof

namespace Sys2Proof.Machine

theorem step_nil {s : State} (hok : s.params.ok = true) (hi : s.env.inputs = []) :
    step s = applyInput (Config.freeInput s.env.tick) (s.setInputs s.env.inputs) := by
  rw [step_ok hok, nextInput, afterInput, hi]; rfl

theorem step_bad_configuration {s : State} (h : s.params.ok = false) : step s = .refused .badConfiguration := by
  unfold step advance; rw [h]; rfl

end Sys2Proof.Machine

namespace Sys2Proof.Proofs

open Sys2Proof.Machine

/-- Settles O21: a scheduled input is taken by `step_cons`, a free one by `step_nil`. -/
theorem stepTakesNextInput : Obligations.StepTakesNextInput :=
  fun _ hok => ⟨fun _ _ hi => step_cons hok hi, fun hi => step_nil hok hi⟩

end Sys2Proof.Proofs
end

section
/-! Nothing stops: every well-formed instruction completes, and from a state with the invariant so does every step. -/

namespace Sys2Proof.Machine

open Sys2Proof.Safety

/-- The operation goes on to a next state: neither a fault nor a refusal. -/
def GoesOn (r : Result) : Prop := ∃ t, r = .next t

@[simp] theorem goesOn_next (t : State) : GoesOn (.next t) := ⟨t, rfl⟩

/-! ### Instructions -/

theorem commit_goesOn {reply : List Byte} (s : State) (h : reply.length ≤ Config.bufferCap) : GoesOn (commit reply s) :=
  (commit_ok s h).imp fun _ ht => ht.1

theorem takeException_goesOn (a f : Byte) (code : ExcCode) (s : State) : GoesOn (takeException a f code s) :=
  (takeException_ok a f code s).imp fun _ ht => ht.1

/-- The replies of requests over at most 2000 inputs fit the transmit buffer (R9, R196). -/
theorem ExecShape.goesOn {i : Instr} {s : State} {r : Result} (h : ExecShape i s r) (hi : i.direction = .request)
    (hn : s.params.nInputs ≤ 2000) : GoesOn r := by
  cases h with
  | exception f code => exact takeException_goesOn _ f code s
  | reply reply _ _ fits =>
    have hl := (fits hi).2
    refine commit_goesOn s ?_
    simp only [byteCount] at hl
    simp only [Config.bufferCap]
    omega
  | coil c v => exact commit_goesOn _ (by simp [writeCoilReply, Config.bufferCap])

theorem exec_request_goesOn {i : Instr} {s : State} (hi : i.direction = .request) (hn : s.params.nInputs ≤ 2000) :
    GoesOn (exec i s) :=
  (exec_shape i s).goesOn hi hn

/-- The reply forms do not look at the tables, so their completion rests on their own length alone (log 11). -/
theorem exec_reply_goesOn {i : Instr} (s : State) (hi : i.direction = .reply) (hw : i.wf = true) : GoesOn (exec i s) := by
  cases i with
  | rdiRsp a data =>
    have hl : data.length ≤ 250 := of_decide_eq_true hw
    exact commit_goesOn s (by simp only [Instr.bytes, List.length_cons, Config.bufferCap]; omega)
  | wscRsp a c v => exact commit_goesOn (reply := (Instr.wscRsp a c v).bytes) s (by simp [Instr.bytes, Config.bufferCap])
  | exc a f code => exact takeException_goesOn a _ code s
  | _ => cases hi

theorem exec_goesOn {i : Instr} {s : State} (hn : s.params.nInputs ≤ 2000) (hw : i.wf = true) : GoesOn (exec i s) := by
  cases hi : i.direction with
  | request => exact exec_request_goesOn hi hn
  | reply => exact exec_reply_goesOn s hi hw

/-! ### Frames in the buffers -/

/-- A frame of 4 to 256 bytes decodes (R93). -/
theorem decodeRequest_of_length {frame : List Byte} (h4 : 4 ≤ frame.length) (h256 : frame.length ≤ 256) :
    ∃ i, decodeRequest frame = .ok i := by
  obtain _ | ⟨a, _ | ⟨f, rest⟩⟩ := frame
  · simp at h4
  · simp at h4
  · simp only [List.length_cons] at h4 h256
    exact ⟨decodeRequestParts a f (beforeCrc rest), by
      simp only [decodeRequest, if_neg (show ¬ rest.length < 2 by omega), if_neg (show ¬ 254 < rest.length by omega)]⟩

theorem rxFrame_of_inv {s : State} (h : Inv s) : ∃ frame, rxFrame s = .ok frame ∧ frame.length = s.eng.rxCount := by
  obtain ⟨frame, hf⟩ := readCells_ok (sp := .rx) (len := s.eng.rxCount) (n := s.eng.rxCount) (i := 0)
    fun j hj => ⟨by omega, by simpa using h.rxStored j hj⟩
  exact ⟨frame, hf, (readCells_spec hf).1⟩

theorem txFrame_of_inv {s : State} (h : Inv s) : ∃ frame, txFrame s = .ok frame :=
  readCells_ok fun j hj => ⟨by omega, by simpa using h.txStored j hj⟩

/-! ### The processing step -/

theorem validate_goesOn {s : State} (h : Inv s) : GoesOn (validate s) := by
  obtain ⟨frame, hf, -⟩ := rxFrame_of_inv h
  by_cases hr : s.eng.integrityOk = false ∨ s.eng.rxCount ≤ 3
  · exact ⟨_, validate_reject (hr.imp_right .inl)⟩
  · simp only [not_or, Bool.not_eq_false, Nat.not_le] at hr
    obtain ⟨hi, hl⟩ := hr
    cases hc : crcMatches frame with
    | false => exact ⟨_, validate_reject (.inr (.inr ⟨frame, hf, hc⟩))⟩
    | true => exact ⟨_, validate_accept hi hl hf hc⟩

/-- A frame in a PROCESSING phase has passed the length check, so it decodes, and the request runs (R93, R162). -/
theorem dispatch_goesOn {s : State} (h : Inv s) (hn : s.params.nInputs ≤ 2000)
    (hp : s.eng.phase = .processingResponse ∨ s.eng.phase = .processingNoResponse) : GoesOn (dispatch s) := by
  obtain ⟨frame, hf, hl⟩ := rxFrame_of_inv h
  obtain ⟨i, hd⟩ := decodeRequest_of_length (hl ▸ (h.validated hp).1) (hl ▸ h.rxCountLe)
  rw [dispatch_eq hf hd]
  exact exec_request_goesOn (decodeRequest_ok hd).1 hn

theorem stepProcessing_goesOn {s : State} (t : Time) (h : Inv s) (hn : s.params.nInputs ≤ 2000)
    (hp : s.eng.phase = .processingResponse ∨ s.eng.phase = .processingNoResponse) : GoesOn (stepProcessing t s) := by
  cases ht : frameTimeout t s with
  | false => exact ⟨_, stepProcessing_early ht⟩
  | true =>
    cases hi : s.eng.integrityOk with
    | false => exact ⟨_, stepProcessing_abandon ht hi⟩
    | true => exact stepProcessing_dispatch ht hi ▸ dispatch_goesOn h hn hp

/-- A committed reply has at most 253 bytes, so its CRC still fits (R196). -/
theorem emitArm_goesOn {s : State} (h : Inv s) (he : s.eng.emit = .arm) : GoesOn (emitArm s) := by
  cases hp : s.eng.txPending with
  | false => exact ⟨_, emitArm_idle hp⟩
  | true =>
    obtain ⟨reply, hr⟩ := txFrame_of_inv h
    have hl := (h.replyLength hp he).2
    obtain ⟨m, hm⟩ := writeBytes_ok (sp := .tx) (buf := s.eng.txBuf) (i := s.eng.txLen) (vs := crcBytes reply)
      (by simp only [crcBytes_length, Config.bufferCap]; omega)
    simp [emitArm, hp, hr, hm]

/-- In E_SEND the byte at the index is there to send (R213). -/
theorem emitSend_goesOn {s : State} (r : Bool) (h : Inv s) (he : s.eng.emit = .send) : GoesOn (emitSend r s) := by
  have hi := h.sendIndexLt he
  obtain ⟨v, hv⟩ := Option.isSome_iff_exists.1 (h.txStored _ hi)
  have hc := (readCell_ok (sp := .tx)).2 ⟨hi, hv⟩
  unfold emitSend
  rw [hc]
  cases r with
  | false => simp
  | true => by_cases hlast : s.eng.txIdx + 1 = s.eng.txLen <;> simp [hlast]

theorem emitter_goesOn {s : State} (r f : Bool) (h : Inv s) : GoesOn (emitter r f s) := by
  cases he : s.eng.emit with
  | arm => exact emitter_arm he r f ▸ emitArm_goesOn h he
  | send => exact emitter_send he r f ▸ emitSend_goesOn r h he
  | flush => exact ⟨_, emitter_flush he r f⟩

theorem engineStep_goesOn {s : State} (t : Time) (r f : Bool) (h : Inv s) (hn : s.params.nInputs ≤ 2000) :
    GoesOn (engineStep t r f s) := by
  cases hp : s.eng.phase with
  | init => exact ⟨_, engineStep_init hp t r f⟩
  | idle => exact ⟨_, engineStep_idle hp t r f⟩
  | reception => exact ⟨_, engineStep_reception hp t r f⟩
  | waiting => exact engineStep_waiting hp t r f ▸ validate_goesOn h
  | processingResponse => exact engineStep_processing (.inl hp) t r f ▸ stepProcessing_goesOn t h hn (.inl hp)
  | processingNoResponse => exact engineStep_processing (.inr hp) t r f ▸ stepProcessing_goesOn t h hn (.inr hp)
  | discard => exact ⟨_, engineStep_discard hp t r f⟩
  | emission => exact engineStep_emission hp t r f ▸ emitter_goesOn r f h

/-! ### Any input -/

theorem applyEvent_goesOn {s : State} (e : Event) (h : Inv s) (hn : s.params.nInputs ≤ 2000) : GoesOn (applyEvent e s) := by
  cases e with
  | step t r f => exact engineStep_goesOn t r f h hn
  | _ => exact goesOn_next _

/-- The invariant says nothing of the inputs to come or of their number. -/
theorem inv_afterInput {s : State} (h : Inv s) : Inv (afterInput s) := { h with }

/-- The host writes of a clock edge keep the invariant: beside the two tables it says nothing of what they write. -/
theorem inv_hostWrites {s : State} (p : PortsIn) (h : Inv s) : Inv (hostWrites p s) := by
  rw [hostWrites_eq]
  exact { h with
    diCanonical := by
      show Table.wf s.params.nInputs (ite _ _ _) = true
      split
      · rename_i hw; exact Table.wf_set h.diCanonical hw.2
      · exact h.diCanonical
    coilCanonical := by
      show Table.wf s.params.nCoils (ite _ _ _) = true
      split
      · rename_i hw; exact Table.wf_set h.coilCanonical hw.2
      · exact h.coilCanonical }

theorem hostWrites_params (p : PortsIn) (s : State) : (hostWrites p s).params = s.params := by rw [hostWrites_eq]

theorem clockEdge_goesOn {s : State} (p : PortsIn) (h : Inv s) (hn : s.params.nInputs ≤ 2000) : GoesOn (clockEdge p s) := by
  unfold clockEdge
  split
  · exact applyEvent_goesOn _ h hn
  · exact applyEvent_goesOn _ (inv_hostWrites p h) (hostWrites_params p s ▸ hn)

theorem applyInput_goesOn {s : State} (i : Input) (h : Inv s) (hn : s.params.nInputs ≤ 2000) : GoesOn (applyInput i s) := by
  cases i with
  | event e => exact applyEvent_goesOn e h hn
  | clock p => exact clockEdge_goesOn p h hn

end Sys2Proof.Machine

namespace Sys2Proof.Proofs

open Sys2Proof.Machine Sys2Proof.Safety

/-- Settles O32: a request has one of the three shapes of `ExecShape`, each of which goes on; a reply form fits the buffer. -/
theorem everyInstructionCompletes : Obligations.EveryInstructionCompletes :=
  fun _ _ hok hw => exec_goesOn (Params.nInputs_le hok) hw

/-- Settles O48: the state with its next input taken has the invariant too, and no arm of the step stops there. -/
theorem noStepStops : Obligations.NoStepStops := by
  intro s h hok
  rw [step_ok hok]
  exact applyInput_goesOn _ (inv_afterInput h) (Params.nInputs_le hok)

end Sys2Proof.Proofs
end

section
/-! The bytes already sent influence nothing: every operation, run beside itself with another observation, does the same and adds
the same bytes. No arm is refused on the way, so that only a bad configuration is. -/

namespace Sys2Proof.Machine

/-- The state with another observation in place of its own. -/
def State.withSent (s : State) (l : List Sent) : State := { s with env := { s.env with sent := l } }

@[simp] theorem State.withSent_eng (s : State) (l : List Sent) : (s.withSent l).eng = s.eng := rfl
@[simp] theorem State.withSent_params (s : State) (l : List Sent) : (s.withSent l).params = s.params := rfl
@[simp] theorem State.withSent_sent (s : State) (l : List Sent) : (s.withSent l).env.sent = l := rfl

/-- Two results of one operation, begun with the observations `old` and `old'`: the same outcome, with the same bytes appended to
each. A refusal is related to nothing. -/
inductive SameButSent (old old' : List Sent) : Result → Result → Prop
  | next (u : State) (new : List Sent) (appended : u.env.sent = old ++ new) :
      SameButSent old old' (.next u) (.next (u.withSent (old' ++ new)))
  | fault (f : Fault) : SameButSent old old' (.fault f) (.fault f)

/-- An operation that leaves the environment alone sends nothing. -/
theorem SameButSent.quiet {s u : State} (l : List Sent) (h : u.env = s.env) :
    SameButSent s.env.sent l (.next u) (.next (u.withSent l)) := by
  simpa using SameButSent.next (old := s.env.sent) (old' := l) u [] (by simp [h])

theorem SameButSent.not_refused {old old' : List Sent} {r r' : Result} (h : SameButSent old old' r r') (q : Refusal) :
    r ≠ .refused q := by
  cases h <;> exact fun h => nomatch h

variable (s : State) (l : List Sent)

/-! ### The receiver and the host -/

@[simp] theorem lineError_env (err : Bool) : (lineError err s).env = s.env := by cases err <;> rfl

theorem lineError_withSent (err : Bool) : lineError err (s.withSent l) = (lineError err s).withSent l := by
  cases err <;> rfl

@[simp] theorem absorb_env (d : Byte) (err : Bool) (t : Time) : (absorb d err t s).env = s.env := by
  obtain h | h := Nat.lt_or_ge s.eng.rxCount Config.bufferCap
  · rw [absorb_room h]; exact lineError_env _ err
  · rw [absorb_full h]; exact lineError_env _ err

theorem absorb_withSent (d : Byte) (err : Bool) (t : Time) :
    absorb d err t (s.withSent l) = (absorb d err t s).withSent l := by
  obtain h | h := Nat.lt_or_ge s.eng.rxCount Config.bufferCap
  · rw [absorb_room h, absorb_room (s := s.withSent l) h]; cases err <;> rfl
  · rw [absorb_full h, absorb_full (s := s.withSent l) h]; cases err <;> rfl

@[simp] theorem startFrame_env (d : Byte) (err : Bool) (t : Time) : (startFrame d err t s).env = s.env := by
  rw [startFrame_eq]

theorem startFrame_withSent (d : Byte) (err : Bool) (t : Time) :
    startFrame d err t (s.withSent l) = (startFrame d err t s).withSent l := by
  rw [startFrame_eq, startFrame_eq]; rfl

@[simp] theorem receiveByte_env (d : Byte) (err : Bool) (t : Time) : (receiveByte d err t s).env = s.env := by
  unfold receiveByte
  cases s.eng.phase with
  | init => exact lineError_env s err
  | idle => exact startFrame_env s d err t
  | reception => dsimp only; split <;> [rfl; exact absorb_env s d err t]
  | emission => dsimp only; split <;> [exact lineError_env s err; exact startFrame_env _ d err t]
  | _ => rfl

theorem receiveByte_withSent (d : Byte) (err : Bool) (t : Time) :
    receiveByte d err t (s.withSent l) = (receiveByte d err t s).withSent l := by
  unfold receiveByte
  rw [State.withSent_eng]
  cases s.eng.phase with
  | init => exact lineError_withSent s l err
  | idle => exact startFrame_withSent s l d err t
  | reception =>
    rw [show charTimeout t (s.withSent l) = charTimeout t s from rfl]
    dsimp only
    split <;> [rfl; exact absorb_withSent s l d err t]
  | emission => dsimp only; split <;> [exact lineError_withSent s l err; exact startFrame_withSent (s.setPhase .idle) l d err t]
  | _ => rfl

@[simp] theorem rxByte_env (d : Byte) (perr ferr oerr : Bool) (t : Time) : (rxByte d perr ferr oerr t s).env = s.env := by
  cases h : s.eng.rxEn with
  | false => rw [rxByte_disabled h]
  | true => rw [rxByte_enabled h, receiveByte_env]

theorem rxByte_withSent (d : Byte) (perr ferr oerr : Bool) (t : Time) :
    rxByte d perr ferr oerr t (s.withSent l) = (rxByte d perr ferr oerr t s).withSent l := by
  cases h : s.eng.rxEn with
  | false => rw [rxByte_disabled h, rxByte_disabled (s := s.withSent l) h]
  | true => rw [rxByte_enabled h, rxByte_enabled (s := s.withSent l) h, receiveByte_withSent]

@[simp] theorem hostWrites_env (p : PortsIn) : (hostWrites p s).env = s.env := by rw [hostWrites_eq]

theorem hostWrites_withSent (p : PortsIn) : hostWrites p (s.withSent l) = (hostWrites p s).withSent l := by
  rw [hostWrites_eq, hostWrites_eq]; rfl

/-! ### The dispatcher -/

theorem commit_sameButSent (reply : List Byte) :
    SameButSent s.env.sent l (commit reply s) (commit reply (s.withSent l)) := by
  unfold commit
  rw [State.withSent_eng]
  split
  · cases writeBytes .tx s.eng.txBuf 0 reply with
    | error f => exact .fault f
    | ok m => exact .quiet (u := ((s.setTx m reply.length).setTxPending true).setPhase .emission) l rfl
  · exact .quiet (u := s.setPhase .emission) l rfl

theorem takeException_sameButSent (a f : Byte) (code : ExcCode) :
    SameButSent s.env.sent l (takeException a f code s) (takeException a f code (s.withSent l)) :=
  commit_sameButSent (inc .exc s) l _

theorem readDiscreteInputs_sameButSent (a : Byte) (start quantity : Nat) :
    SameButSent s.env.sent l (readDiscreteInputs a start quantity s) (readDiscreteInputs a start quantity (s.withSent l)) := by
  unfold readDiscreteInputs
  rw [State.withSent_params]
  split
  · exact takeException_sameButSent s l _ _ _
  · split
    · exact takeException_sameButSent s l _ _ _
    · exact commit_sameButSent s l _

theorem writeSingleCoil_sameButSent (a : Byte) (addr value : Word) :
    SameButSent s.env.sent l (writeSingleCoil a addr value s) (writeSingleCoil a addr value (s.withSent l)) := by
  unfold writeSingleCoil
  rw [State.withSent_params]
  split
  · exact takeException_sameButSent s l _ _ _
  · split
    · exact takeException_sameButSent s l _ _ _
    · exact commit_sameButSent (s.setCoil (Table.set s.eng.coil addr.toNat (value == 0xFF00#16))) l _

theorem exec_sameButSent (i : Instr) : SameButSent s.env.sent l (exec i s) (exec i (s.withSent l)) := by
  cases i with
  | rdi a body =>
    cases body with
    | fields start quantity => exact readDiscreteInputs_sameButSent s l a _ _
    | malformed p => exact takeException_sameButSent s l _ _ _
  | wsc a body =>
    cases body with
    | fields addr value => exact writeSingleCoil_sameButSent s l a addr value
    | malformed p => exact takeException_sameButSent s l _ _ _
  | wscOn a addr => exact writeSingleCoil_sameButSent s l a addr 0xFF00#16
  | wscOff a addr => exact writeSingleCoil_sameButSent s l a addr 0x0000#16
  | illegal a f p => exact takeException_sameButSent s l _ _ _
  | rdiRsp a data => exact commit_sameButSent s l (Instr.rdiRsp a data).bytes
  | wscRsp a c v => exact commit_sameButSent s l (Instr.wscRsp a c v).bytes
  | exc a f code => exact takeException_sameButSent s l _ _ _

theorem dispatch_sameButSent : SameButSent s.env.sent l (dispatch s) (dispatch (s.withSent l)) := by
  unfold dispatch
  rw [show fetch (s.withSent l) = fetch s from rfl]
  cases fetch s with
  | error f => exact .fault f
  | ok i => exact exec_sameButSent s l i

/-! ### The processing step -/

@[simp] theorem rejectFrame_env : (rejectFrame s).env = s.env := rfl

@[simp] theorem filterAddress_env (a : Byte) : (filterAddress a s).env = s.env := by
  unfold filterAddress; split <;> [rfl; (split <;> rfl)]

theorem filterAddress_withSent (a : Byte) : filterAddress a (s.withSent l) = (filterAddress a s).withSent l := by
  unfold filterAddress; rw [State.withSent_eng]; split <;> [rfl; (split <;> rfl)]

theorem validate_sameButSent : SameButSent s.env.sent l (validate s) (validate (s.withSent l)) := by
  unfold validate
  rw [State.withSent_eng, show rxFrame (s.withSent l) = rxFrame s from rfl]
  split
  · exact .quiet (u := rejectFrame s) l rfl
  · cases rxFrame s with
    | error f => exact .fault f
    | ok frame =>
      dsimp only
      split
      · rw [show inc .busMsg (s.withSent l) = (inc .busMsg s).withSent l from rfl, filterAddress_withSent]
        exact .quiet l (by simp)
      · exact .quiet (u := rejectFrame s) l rfl

theorem stepProcessing_sameButSent (t : Time) :
    SameButSent s.env.sent l (stepProcessing t s) (stepProcessing t (s.withSent l)) := by
  unfold stepProcessing
  rw [State.withSent_eng, show frameTimeout t (s.withSent l) = frameTimeout t s from rfl]
  split
  · split
    · exact dispatch_sameButSent s l
    · exact .quiet (u := abandon s) l rfl
  · exact .quiet l rfl

theorem emitArm_sameButSent : SameButSent s.env.sent l (emitArm s) (emitArm (s.withSent l)) := by
  unfold emitArm
  rw [State.withSent_eng, show txFrame (s.withSent l) = txFrame s from rfl]
  split
  · cases txFrame s with
    | error f => exact .fault f
    | ok reply =>
      dsimp only
      cases writeBytes .tx s.eng.txBuf s.eng.txLen (crcBytes reply) with
      | error f => exact .fault f
      | ok m =>
        exact .quiet (u := (((s.setTx m (s.eng.txLen + 2)).setLine true false).setTxIdx 0).setEmit .send) l rfl
  · exact .quiet (u := returnToIdle s) l rfl

/-- The one place where a byte is sent (R214). -/
theorem emitSend_sameButSent (r : Bool) : SameButSent s.env.sent l (emitSend r s) (emitSend r (s.withSent l)) := by
  unfold emitSend
  rw [State.withSent_eng]
  split
  · cases readCell .tx s.eng.txBuf s.eng.txLen s.eng.txIdx with
    | error f => exact .fault f
    | ok v =>
      dsimp only
      split
      · exact .next (((send v s).setTxIdx (s.eng.txIdx + 1)).setEmit .flush) [{ byte := v, de := s.eng.de }] rfl
      · exact .next ((send v s).setTxIdx (s.eng.txIdx + 1)) [{ byte := v, de := s.eng.de }] rfl
  · exact .quiet l rfl

theorem emitter_sameButSent (r f : Bool) : SameButSent s.env.sent l (emitter r f s) (emitter r f (s.withSent l)) := by
  unfold emitter
  rw [State.withSent_eng]
  cases s.eng.emit with
  | arm => exact emitArm_sameButSent s l
  | send => exact emitSend_sameButSent s l r
  | flush => cases f <;> [exact .quiet l rfl; exact .quiet (u := releaseLine s) l rfl]

theorem engineStep_sameButSent (t : Time) (r f : Bool) :
    SameButSent s.env.sent l (engineStep t r f s) (engineStep t r f (s.withSent l)) := by
  unfold engineStep
  rw [State.withSent_eng]
  cases s.eng.phase with
  | init => exact .quiet (u := s.setPhase .idle) l rfl
  | idle => exact .quiet l rfl
  | reception =>
    rw [show charTimeout t (s.withSent l) = charTimeout t s from rfl]
    dsimp only
    split <;> [exact .quiet (u := s.setPhase .waiting) l rfl; exact .quiet l rfl]
  | waiting => exact validate_sameButSent s l
  | processingResponse => exact stepProcessing_sameButSent s l t
  | processingNoResponse => exact stepProcessing_sameButSent s l t
  | discard =>
    rw [show frameTimeout t (s.withSent l) = frameTimeout t s from rfl]
    dsimp only
    split <;> [exact .quiet (u := s.setPhase .emission) l rfl; exact .quiet l rfl]
  | emission => exact emitter_sameButSent s l r f

/-! ### Any input -/

theorem applyEvent_sameButSent (e : Event) : SameButSent s.env.sent l (applyEvent e s) (applyEvent e (s.withSent l)) := by
  cases e with
  | reset => exact .quiet (u := resetEngine s) l rfl
  | rxByte d perr ferr oerr t =>
    show SameButSent _ _ (.next (rxByte d perr ferr oerr t s)) (.next (rxByte d perr ferr oerr t (s.withSent l)))
    rw [rxByte_withSent]
    exact .quiet l (rxByte_env s d perr ferr oerr t)
  | step t r f => exact engineStep_sameButSent s l t r f
  | hostSetAddr a => exact .quiet (u := hostSetAddr a s) l rfl
  | hostSetInput i v =>
    show SameButSent _ _ (.next (hostSetInput i v s)) (.next (hostSetInput i v (s.withSent l)))
    rw [hostSetInput_eq, hostSetInput_eq]
    exact .quiet (u := s.setDi _) l rfl
  | hostSetCoil i v =>
    show SameButSent _ _ (.next (hostSetCoil i v s)) (.next (hostSetCoil i v (s.withSent l)))
    rw [hostSetCoil_eq, hostSetCoil_eq]
    exact .quiet (u := s.setCoil _) l rfl
  | _ => exact .quiet l rfl

theorem clockEdge_sameButSent (p : PortsIn) : SameButSent s.env.sent l (clockEdge p s) (clockEdge p (s.withSent l)) := by
  unfold clockEdge
  split
  · exact applyEvent_sameButSent s l .reset
  · rw [hostWrites_withSent, State.withSent_eng]
    exact hostWrites_env s p ▸ applyEvent_sameButSent (hostWrites p s) l _

theorem applyInput_sameButSent (i : Input) : SameButSent s.env.sent l (applyInput i s) (applyInput i (s.withSent l)) := by
  cases i with
  | event e => exact applyEvent_sameButSent s l e
  | clock p => exact clockEdge_sameButSent s l p

/-- The next input does not depend on the observation, nor does what it does. -/
theorem step_sameButSent (hok : s.params.ok = true) : SameButSent s.env.sent l (step s) (step (s.withSent l)) := by
  rw [step_ok hok, step_ok (s := s.withSent l) hok]
  exact applyInput_sameButSent (afterInput s) l (nextInput s)

/-- Only the configuration is ever refused. -/
theorem step_refused_iff : step s = .refused .badConfiguration ↔ s.params.ok = false := by
  refine ⟨fun h => ?_, step_bad_configuration⟩
  by_contra hok
  rw [Bool.not_eq_false] at hok
  exact (step_sameButSent s [] hok).not_refused _ h

end Sys2Proof.Machine

namespace Sys2Proof.Proofs

open Sys2Proof.Machine

/-- Settles O49: `Params.ok` is those constraints, and only `advance` refuses. -/
theorem badConfigurationIsRefused : Obligations.BadConfigurationIsRefused := by
  intro s
  rw [step_refused_iff, ← Params.ok_iff, Bool.not_eq_true]

/-- Settles O60: in a legal configuration by `step_sameButSent`; in any other both steps are refused. -/
theorem observationHasNoInfluence : Obligations.ObservationHasNoInfluence := by
  intro s l
  cases hok : s.params.ok with
  | false =>
    rw [step_bad_configuration hok, step_bad_configuration (s := { s with env := { s.env with sent := l } }) hok]
  | true =>
    have h : SameButSent s.env.sent l (step s) (step { s with env := { s.env with sent := l } }) :=
      step_sameButSent s l hok
    generalize step s = r, step { s with env := { s.env with sent := l } } = r' at h ⊢
    cases h with
    | next u new appended => exact ⟨rfl, rfl, rfl, rfl, new, appended, rfl⟩
    | fault f => rfl

end Sys2Proof.Proofs
end

section
/-! Counters and reset: the saturating increment (R45), what may become of the counter file without a reset (R43, R44), and the
values of R47. -/

namespace Sys2Proof.Machine

open Sys2Proof.Safety

/-- The increment, in numbers (R45). -/
theorem satInc_toNat (c : Count) : (satInc c).toNat = if c.toNat < 2 ^ 16 - 1 then c.toNat + 1 else c.toNat := by
  have hc := c.isLt
  unfold satInc
  split
  · subst c; rfl
  · rename_i hne
    have : c.toNat ≠ 2 ^ 16 - 1 := fun h => hne (BitVec.eq_of_toNat_eq h)
    rw [if_pos (by omega), BitVec.toNat_add_of_lt (by simp; omega)]
    rfl

theorem le_satInc (c : Count) : c.toNat ≤ (satInc c).toNat := by
  rw [satInc_toNat]; split <;> omega

/-- What a step without a reset may do to the counter file: no counter falls, and `NAK` and `BUSY` stay (R43, R44). -/
structure CountersGrow (c d : Counters) : Prop where
  nak : d.nak = c.nak
  busy : d.busy = c.busy
  le : ∀ k, (c.get k).toNat ≤ (d.get k).toNat

namespace CountersGrow

theorem refl (c : Counters) : CountersGrow c c := ⟨rfl, rfl, fun _ => Nat.le_refl _⟩

theorem trans {c d e : Counters} (h : CountersGrow c d) (h' : CountersGrow d e) : CountersGrow c e :=
  ⟨h'.nak.trans h.nak, h'.busy.trans h.busy, fun k => (h.le k).trans (h'.le k)⟩

theorem of_countsOne {k : CounterId} {s t : State} (h : CountsOne k s t) (hn : k ≠ .nak) (hb : k ≠ .busy) :
    CountersGrow s.eng.cnt t.eng.cnt where
  nak := (h .nak).trans (if_neg hn.symm)
  busy := (h .busy).trans (if_neg hb.symm)
  le j := by rw [h j]; split <;> [exact le_satInc _; exact Nat.le_refl _]

theorem inc {k : CounterId} (s : State) (hn : k ≠ .nak) (hb : k ≠ .busy) :
    CountersGrow s.eng.cnt (Machine.inc k s).eng.cnt :=
  of_countsOne (inc_countsOne k s) hn hb

end CountersGrow

/-- The invariant after a reset, whatever was sent before it was driven (R47). -/
theorem inv_resetEngine {s : State} (hs : ∀ x ∈ s.env.sent, x.de = true) : Inv (resetEngine s) where
  rxCanonical := rfl
  txCanonical := rfl
  rxCountLe := Nat.zero_le _
  rxStored _ hi := absurd hi (Nat.not_lt_zero _)
  txLenLe := Nat.zero_le _
  txStored _ hi := absurd hi (Nat.not_lt_zero _)
  txIdxLe := Nat.le_refl _
  rxEnNotDe := rfl
  deIffSending := rfl
  sendingPending h := absurd rfl h
  pendingEmission h := nomatch h
  noReplyNoLength _ := rfl
  armIndexZero _ := rfl
  replyLength h := nomatch h
  sendIndexLt h := nomatch h
  crcTerminated h := absurd rfl h
  validated h := h.elim nofun nofun
  unicastAddress h := nomatch h
  replyAddress h := nomatch h
  diCanonical := Table.wf_empty _
  coilCanonical := Table.wf_empty _
  nakZero := rfl
  busyZero := rfl
  sentDriving := hs

end Sys2Proof.Machine

namespace Sys2Proof.Proofs

open Sys2Proof.Machine

/-- Settles O52: `inc_countsOne` for the file, `satInc_toNat` for the value. -/
theorem counterSaturates : Obligations.CounterSaturates := fun s k => ⟨inc_countsOne k s, satInc_toNat⟩

/-- Settles O46: the machine right after reset is its own reset. -/
theorem resetSatisfiesInvariant : Obligations.ResetSatisfiesInvariant := fun p =>
  inv_resetEngine (s := State.resetWith p) nofun

/-- Settles O45: the row of each register holds by definition, those of the tables bit by bit. -/
theorem resetGivesTabledValues : Obligations.ResetGivesTabledValues := by
  intro s
  refine ⟨resetEngine s, rfl, rfl, rfl, rfl, rfl, rfl, rfl, rfl, rfl, rfl, rfl, fun _ => rfl, fun _ => rfl, rfl,
    Table.get_empty _, Table.get_empty _, ?ireg, fun _ => List.eq_of_mem_replicate, ?hreg, fun _ => List.eq_of_mem_replicate,
    fun k => ?cnt, rfl, rfl⟩
  case ireg => exact List.length_replicate
  case hreg => exact List.length_replicate
  case cnt => cases k <;> rfl

end Sys2Proof.Proofs
end

section
/-! What an executed instruction does, from the three shapes of `exec`: its reply, its counter, its coil, and nothing else. -/

namespace Sys2Proof.Machine

open Sys2Proof.Safety

/-- The three things an instruction can have done: those of `ExecShape`, each by what it leaves behind. -/
inductive ExecEffect (i : Instr) (s t : State) : Prop
  | exception (f : Byte) (code : ExcCode) (effect : TakesException i.address f (excByte code) s t)
  | reply (reply : List Byte) (first : reply[0]? = some i.address)
      (fits : i.direction = .request → 3 ≤ reply.length ∧ reply.length ≤ 3 + byteCount s.params.nInputs)
      (effect : Succeeds reply s.eng.coil s t)
  | coil (c v : Word) (inside : c.toNat < s.params.nCoils)
      (named : i = .wsc i.address (.fields c v) ∨ i = .wscOn i.address c ∨ i = .wscOff i.address c)
      (effect : Succeeds (writeCoilReply i.address c v) (Table.set s.eng.coil c.toNat (v == 0xFF00#16)) s t)

theorem exec_effect {i : Instr} {s t : State} (h : exec i s = .next t) : ExecEffect i s t := by
  have hs := exec_shape i s
  generalize exec i s = r at h hs
  cases hs with
  | exception f code => exact .exception f code (takesException_of_next h)
  | reply reply first _ fits => exact .reply reply first fits (succeeds_of_commit h)
  | coil c v _ inside named =>
    obtain ⟨reply, cnt, coil, frame⟩ := succeeds_of_commit h
    exact .coil c v inside named ⟨reply, cnt, coil, { frame with }⟩

namespace ExecEffect

variable {i : Instr} {s t : State}

theorem frame (h : ExecEffect i s t) : DispatchFrame s t := by
  cases h with
  | exception _ _ effect => exact effect.frame
  | reply _ _ _ effect => exact effect.frame
  | coil _ _ _ _ effect => exact effect.frame

/-- One counter at most moves, and then no coil does (R194). -/
theorem cnt (h : ExecEffect i s t) : t.eng.cnt = s.eng.cnt ∨ (CountsOne .exc s t ∧ t.eng.coil = s.eng.coil) := by
  cases h with
  | exception _ _ effect => exact .inr ⟨effect.counts, effect.coil⟩
  | reply _ _ _ effect => exact .inl effect.cnt
  | coil _ _ _ _ effect => exact .inl effect.cnt

theorem countersGrow (h : ExecEffect i s t) : CountersGrow s.eng.cnt t.eng.cnt := by
  obtain he | ⟨ho, -⟩ := h.cnt
  · rw [he]; exact .refl _
  · exact .of_countsOne ho nofun nofun

/-- The coil table is as before, or has the one existing coil written that a Write Single Coil form names (R190). -/
theorem coil_cases (h : ExecEffect i s t) : t.eng.coil = s.eng.coil ∨
    ∃ c v, c.toNat < s.params.nCoils ∧
      (i = .wsc i.address (.fields c v) ∨ i = .wscOn i.address c ∨ i = .wscOff i.address c) ∧
      t.eng.coil = Table.set s.eng.coil c.toNat (v == 0xFF00#16) := by
  cases h with
  | exception _ _ effect => exact .inl effect.coil
  | reply _ _ _ effect => exact .inl effect.coil
  | coil c v inside named effect => exact .inr ⟨c, v, inside, named, effect.coil⟩

/-- Whatever the instruction, a reply to its address byte is committed; that of a request has 3 bytes at least, and no more than
the inputs need or the echo has (R183, R190, R194). -/
theorem commits (h : ExecEffect i s t) : ∃ reply, reply[0]? = some i.address ∧
    (i.direction = .request → 3 ≤ reply.length ∧ reply.length ≤ 6 + byteCount s.params.nInputs) ∧ CommitsReply reply s t := by
  cases h with
  | exception f code effect => exact ⟨_, rfl, fun _ => by simp only [List.length_cons, List.length_nil]; omega, effect.reply⟩
  | reply reply first fits effect => exact ⟨reply, first, fun hi => by have := fits hi; omega, effect.reply⟩
  | coil c v _ _ effect => exact ⟨_, rfl, fun _ => by simp [writeCoilReply], effect.reply⟩

end ExecEffect

/-- The transmit cells beyond a committed reply read as before. -/
theorem txBuf_beyond_reply {reply : List Byte} {s t : State} {k : Nat} (h : CommitsReply reply s t)
    (hk : t.eng.txLen ≤ k ∨ s.eng.phase ≠ .processingResponse) :
    Memory.read t.eng.txBuf k = Memory.read s.eng.txBuf k := by
  unfold CommitsReply at h
  split at h
  · rename_i hp
    obtain ⟨-, hl, hr⟩ := h
    rw [hr, List.getElem?_eq_none (hl ▸ hk.resolve_right (not_not_intro hp))]
    rfl
  · rw [h.2.2]

/-- A write of an existing coil leaves the others. -/
theorem Table.get_set_other {n i j : Nat} {t : List Word} {v : Bool} (ht : Table.wf n t = true) (hi : i < n) (hj : i ≠ j) :
    Table.get (Table.set t i v) j = Table.get t j := by
  obtain ⟨hl, -⟩ := Table.wf_iff.1 ht
  rw [Table.get_set (by omega), if_neg hj.symm]

end Sys2Proof.Machine

namespace Sys2Proof.Proofs

open Sys2Proof.Machine Sys2Proof.Safety

/-- Settles O31: each part is one of the laws of `ExecEffect`. -/
theorem instructionFrame : Obligations.InstructionFrame := by
  intro s t i hw h
  have he := exec_effect h
  obtain ⟨reply, -, -, hc⟩ := he.commits
  refine ⟨he.frame, he.cnt, fun j h1 h2 h3 => ?_, fun k hk => txBuf_beyond_reply hc hk⟩
  obtain hsame | ⟨c, v, hin, named, hset⟩ := he.coil_cases
  · rw [hsame]
  · have hj : c.toNat ≠ j := by
      obtain hi | hi | hi := named
      · exact h1 _ _ _ hi
      · exact h2 _ _ hi
      · exact h3 _ _ hi
    rw [hset, Table.get_set_other hw hin hj]

end Sys2Proof.Proofs
end

section
/-! What one input does, said once: its host writes (`hostPorts`), and then at most one move of the engine (`EngineMove`). The
rules about every step below split on these. -/

namespace Sys2Proof.Machine

open Sys2Proof.Safety

/-- The write ports that an input drives: those of a clock cycle, or those that stand for a host operation (R241). -/
def hostPorts : Input → PortsIn
  | .event (.hostSetAddr a) => { nowUs := 0, addrWe := true, addrWdata := a }
  | .event (.hostSetInput i v) => { nowUs := 0, diWe := true, diWidx := i, diWdata := v }
  | .event (.hostSetCoil i v) => { nowUs := 0, coilWe := true, coilWidx := i, coilWdata := v }
  | .clock p => p
  | _ => { nowUs := 0 }

/-- Everything `RxByte` and `Step` can do, arm by arm, with the arm's condition where the arm changes more than the flag and the
timestamp (R133 to R149, R160 to R167, R211 to R215). -/
inductive EngineMove (s : State) : Event → State → Prop
  | byteLost (d pe fe oe t) : EngineMove s (.rxByte d pe fe oe t) s
  | byteDropped (d pe fe oe t) : EngineMove s (.rxByte d pe fe oe t) (lineError (pe || fe || oe) s)
  | frameStarted (d pe fe oe t) (phase : s.eng.phase = .idle ∨ s.eng.phase = .emission ∧ s.eng.txPending = false) :
      EngineMove s (.rxByte d pe fe oe t) (startFrame d (pe || fe || oe) t s)
  | byteAbsorbed (d pe fe oe t) (phase : s.eng.phase = .reception) :
      EngineMove s (.rxByte d pe fe oe t) (absorb d (pe || fe || oe) t s)
  | byteLate (d pe fe oe t) (phase : s.eng.phase = .reception) (silence : charTimeout t s = true) :
      EngineMove s (.rxByte d pe fe oe t) (intrude t (s.setPhase .waiting))
  | byteIntruded (d pe fe oe t) : EngineMove s (.rxByte d pe fe oe t) (intrude t s)
  | waited (t r f) : EngineMove s (.step t r f) s
  | initLeft (t r f) (phase : s.eng.phase = .init) : EngineMove s (.step t r f) (s.setPhase .idle)
  | receptionEnded (t r f) (phase : s.eng.phase = .reception) (silence : charTimeout t s = true) :
      EngineMove s (.step t r f) (s.setPhase .waiting)
  | frameRejected (t r f) (phase : s.eng.phase = .waiting)
      (bad : s.eng.integrityOk = false ∨ s.eng.rxCount ≤ 3 ∨ ∃ frame, rxFrame s = .ok frame ∧ crcMatches frame = false) :
      EngineMove s (.step t r f) (rejectFrame s)
  | frameFiltered (t r f frame) (phase : s.eng.phase = .waiting) (integrity : s.eng.integrityOk = true)
      (length : 3 < s.eng.rxCount) (received : rxFrame s = .ok frame) (crc : crcMatches frame = true) :
      EngineMove s (.step t r f) (filterAddress (frame.getD 0 0) (inc .busMsg s))
  | requestRun (t r f frame i u) (phase : s.eng.phase = .processingResponse ∨ s.eng.phase = .processingNoResponse)
      (silence : frameTimeout t s = true) (integrity : s.eng.integrityOk = true) (received : rxFrame s = .ok frame)
      (decoded : decodeRequest frame = .ok i) (run : exec i s = .next u) : EngineMove s (.step t r f) u
  | requestAbandoned (t r f) (phase : s.eng.phase = .processingResponse ∨ s.eng.phase = .processingNoResponse)
      (silence : frameTimeout t s = true) (integrity : s.eng.integrityOk = false) : EngineMove s (.step t r f) (rejectFrame s)
  | discardEnded (t r f) (phase : s.eng.phase = .discard) (silence : frameTimeout t s = true) :
      EngineMove s (.step t r f) (s.setPhase .emission)
  | nothingToSend (t r f) (phase : s.eng.phase = .emission) (emit : s.eng.emit = .arm) (pending : s.eng.txPending = false) :
      EngineMove s (.step t r f) (s.setPhase .idle)
  | lineTurned (t r f reply m) (phase : s.eng.phase = .emission) (emit : s.eng.emit = .arm) (pending : s.eng.txPending = true)
      (stored : txFrame s = .ok reply) (written : writeBytes .tx s.eng.txBuf s.eng.txLen (crcBytes reply) = .ok m) :
      EngineMove s (.step t r f) ((((s.setTx m (s.eng.txLen + 2)).setLine true false).setTxIdx 0).setEmit .send)
  | byteSent (t f v) (phase : s.eng.phase = .emission) (emit : s.eng.emit = .send) (left : s.eng.txIdx < s.eng.txLen)
      (read : Memory.read s.eng.txBuf s.eng.txIdx = some v) :
      EngineMove s (.step t true f) (((send v s).setTxIdx (s.eng.txIdx + 1)).setEmit
        (if s.eng.txIdx + 1 = s.eng.txLen then .flush else s.eng.emit))
  | lineReleased (t r) (phase : s.eng.phase = .emission) (emit : s.eng.emit = .flush) :
      EngineMove s (.step t r true) (releaseLine s)

variable {s : State}

theorem startFrame_setPhase (d : Byte) (err : Bool) (t : Time) (p : Phase) :
    startFrame d err t (s.setPhase p) = startFrame d err t s := by
  rw [startFrame_eq, startFrame_eq]; rfl

theorem rxByte_moves (d : Byte) (pe fe oe : Bool) (t : Time) :
    EngineMove s (.rxByte d pe fe oe t) (rxByte d pe fe oe t s) := by
  cases hen : s.eng.rxEn with
  | false => rw [rxByte_disabled hen]; exact .byteLost ..
  | true =>
    rw [rxByte_enabled hen]
    cases hp : s.eng.phase with
    | init => rw [receiveByte_init hp]; exact .byteDropped ..
    | idle => rw [receiveByte_idle hp]; exact .frameStarted _ _ _ _ _ (.inl hp)
    | reception =>
      rw [receiveByte_reception hp]
      split
      · exact .byteLate _ _ _ _ _ hp ‹_›
      · exact .byteAbsorbed _ _ _ _ _ hp
    | emission =>
      cases hx : s.eng.txPending with
      | true => rw [receiveByte_pending hp hx]; exact .byteDropped ..
      | false =>
        rw [receiveByte_emission hp hx, startFrame_setPhase]
        exact .frameStarted _ _ _ _ _ (.inr ⟨hp, hx⟩)
    | _ => rw [receiveByte_intrudes (by simp [hp])]; exact .byteIntruded ..

theorem validate_moves {u : State} {t : Time} {r f : Bool} (hp : s.eng.phase = .waiting) (h : validate s = .next u) :
    EngineMove s (.step t r f) u := by
  unfold validate at h
  split at h
  · rename_i hb
    cases h; exact .frameRejected _ _ _ hp (hb.imp_right .inl)
  · rename_i hn
    simp only [not_or, Bool.not_eq_false, Nat.not_le] at hn
    split at h
    · cases h
    · rename_i frame hf
      split at h
      · rename_i hc; cases h; exact .frameFiltered _ _ _ frame hp hn.1 hn.2 hf hc
      · rename_i hc; cases h; exact .frameRejected _ _ _ hp (.inr (.inr ⟨frame, hf, Bool.not_eq_true _ ▸ hc⟩))

theorem stepProcessing_moves {u : State} {t : Time} {r f : Bool}
    (hp : s.eng.phase = .processingResponse ∨ s.eng.phase = .processingNoResponse) (h : stepProcessing t s = .next u) :
    EngineMove s (.step t r f) u := by
  cases ht : frameTimeout t s with
  | false => rw [stepProcessing_early ht] at h; cases h; exact .waited ..
  | true =>
    cases hi : s.eng.integrityOk with
    | false => rw [stepProcessing_abandon ht hi] at h; cases h; exact .requestAbandoned _ _ _ hp ht hi
    | true =>
      rw [stepProcessing_dispatch ht hi] at h
      obtain ⟨frame, i, hf, hd, he⟩ := dispatch_cases h
      exact .requestRun _ _ _ frame i u hp ht hi hf hd he

theorem emitter_moves {u : State} {t : Time} {r f : Bool} (hp : s.eng.phase = .emission) (h : emitter r f s = .next u) :
    EngineMove s (.step t r f) u := by
  cases he : s.eng.emit with
  | arm =>
    rw [emitter_arm he] at h
    obtain ⟨hx, rfl⟩ | ⟨hx, reply, m, hr, hm, rfl⟩ := emitArm_cases h
    · exact .nothingToSend _ _ _ hp he hx
    · exact .lineTurned _ _ _ reply m hp he hx hr hm
  | send =>
    rw [emitter_send he] at h
    obtain ⟨-, rfl⟩ | ⟨v, rfl, hi, hv, rfl⟩ := emitSend_cases h
    · exact .waited ..
    · exact .byteSent _ _ v hp he hi hv
  | flush =>
    rw [emitter_flush he] at h
    cases h
    cases f with
    | false => exact .waited ..
    | true => exact .lineReleased _ _ hp he

theorem engineStep_moves {u : State} {t : Time} {r f : Bool} (h : engineStep t r f s = .next u) :
    EngineMove s (.step t r f) u := by
  cases hp : s.eng.phase with
  | init => rw [engineStep_init hp] at h; cases h; exact .initLeft _ _ _ hp
  | idle => rw [engineStep_idle hp] at h; cases h; exact .waited ..
  | reception =>
    rw [engineStep_reception hp] at h
    cases h
    split
    · exact .receptionEnded _ _ _ hp ‹_›
    · exact .waited ..
  | waiting => exact validate_moves hp (engineStep_waiting hp t r f ▸ h)
  | processingResponse => exact stepProcessing_moves (.inl hp) (engineStep_processing (.inl hp) t r f ▸ h)
  | processingNoResponse => exact stepProcessing_moves (.inr hp) (engineStep_processing (.inr hp) t r f ▸ h)
  | discard =>
    rw [engineStep_discard hp] at h
    cases h
    split
    · exact .discardEnded _ _ _ hp ‹_›
    · exact .waited ..
  | emission => exact emitter_moves hp (engineStep_emission hp t r f ▸ h)

/-- One event: a reset, the write of a host operation, or a move of the engine. -/
theorem applyEvent_cases {e : Event} {u : State} (h : applyEvent e s = .next u) :
    (e = .reset ∧ u = resetEngine s) ∨ u = hostWrites (hostPorts (.event e)) s ∨ EngineMove s e u := by
  cases e with
  | reset => cases h; exact .inl ⟨rfl, rfl⟩
  | rxByte d pe fe oe t => cases h; exact .inr (.inr (rxByte_moves d pe fe oe t))
  | step t r f => exact .inr (.inr (engineStep_moves h))
  | _ => cases h; exact .inr (.inl rfl)

/-- A move of the engine comes from `RxByte` or `Step`, which write nothing for the host. -/
theorem EngineMove.hostPorts_eq {e : Event} {u : State} (h : EngineMove s e u) : hostWrites (hostPorts (.event e)) s = s := by
  cases h <;> rfl

/-- One input that is no reset: its host writes, and then a move of the engine or nothing (R231, R241). -/
theorem applyInput_cases {i : Input} {u : State} (h : applyInput i s = .next u) (hr : resets i = false) :
    u = hostWrites (hostPorts i) s ∨ ∃ e, EngineMove (hostWrites (hostPorts i) s) e u := by
  cases i with
  | event e =>
    obtain ⟨rfl, -⟩ | hw | hm := applyEvent_cases h
    · cases hr
    · exact .inl hw
    · exact .inr ⟨e, hm.hostPorts_eq.symm ▸ hm⟩
  | clock p =>
    have hrst : p.rst = false := hr
    simp only [applyInput, clockEdge, hrst, Bool.false_eq_true, if_false] at h
    unfold cycleEvent at h
    split at h
    · cases h; exact .inr ⟨_, rxByte_moves ..⟩
    · exact .inr ⟨_, engineStep_moves h⟩

/-- One step: a reset, or the host writes of its input and then a move of the engine or nothing. -/
theorem step_cases {u : State} (h : step s = .next u) :
    (resets (nextInput s) = true ∧ u = resetEngine (afterInput s)) ∨
    (resets (nextInput s) = false ∧ (u = hostWrites (hostPorts (nextInput s)) (afterInput s) ∨
      ∃ e, EngineMove (hostWrites (hostPorts (nextInput s)) (afterInput s)) e u)) := by
  rw [step_ok (params_ok_of_step h)] at h
  cases hr : resets (nextInput s) with
  | false => exact .inr ⟨rfl, applyInput_cases h hr⟩
  | true =>
    refine .inl ⟨rfl, ?_⟩
    generalize nextInput s = i at h hr
    cases i with
    | event e =>
      cases e with
      | reset => cases h; rfl
      | _ => cases hr
    | clock p =>
      have hrst : p.rst = true := hr
      simp only [applyInput, clockEdge, hrst, if_true] at h
      cases h; rfl

end Sys2Proof.Machine
end

section
/-! The invariant, kept by every step: one lemma for each move of the engine, on top of those for the setters it is made of. -/

namespace Sys2Proof.Machine

open Sys2Proof.Safety

variable {s : State}

/-! ### Outside EMISSION -/

/-- With nothing pending the transmit side is at rest (R46, R219). -/
theorem emit_eq_arm_of_not_pending (h : Inv s) (hp : s.eng.txPending = false) : s.eng.emit = .arm := by
  by_contra he
  rw [h.sendingPending he] at hp
  cases hp

theorem not_pending_of_phase (h : Inv s) (hp : s.eng.phase ≠ .emission) : s.eng.txPending = false :=
  Bool.not_eq_true _ ▸ fun hx => hp (h.pendingEmission hx)

/-- A phase in which no frame is being processed may be entered whenever a pending reply allows it. -/
theorem inv_setPhase {p : Phase} (h : Inv s) (hx : s.eng.txPending = true → p = .emission)
    (hr : p ≠ .processingResponse) (hn : p ≠ .processingNoResponse) : Inv (s.setPhase p) :=
  { h with
    pendingEmission := hx
    validated := fun hp => hp.elim (absurd · hr) (absurd · hn)
    unicastAddress := fun hp => absurd hp hr }

/-- From another phase than EMISSION, every phase in which no frame is being processed may be entered. -/
theorem inv_setPhase_of_ne {p : Phase} (h : Inv s) (hs : s.eng.phase ≠ .emission)
    (hr : p ≠ .processingResponse) (hn : p ≠ .processingNoResponse) : Inv (s.setPhase p) :=
  inv_setPhase h (fun hx => absurd (h.pendingEmission hx) hs) hr hn

theorem inv_inc {k : CounterId} (h : Inv s) (hn : k ≠ .nak) (hb : k ≠ .busy) : Inv (inc k s) :=
  { h with
    nakZero := (CountersGrow.inc s hn hb).nak.trans h.nakZero
    busyZero := (CountersGrow.inc s hn hb).busy.trans h.busyZero }

/-! ### The receiver -/

theorem inv_lineError (err : Bool) (h : Inv s) : Inv (lineError err s) := by
  cases err with
  | false => exact h
  | true => exact { h with }

theorem inv_intrude (t : Time) (h : Inv s) : Inv (intrude t s) := { h with }

/-- A byte stored at the end of the frame, while no frame is being processed. -/
theorem inv_storeByte (d : Byte) (h : Inv s) (hp : s.eng.phase = .reception) (hc : s.eng.rxCount < Config.bufferCap) :
    Inv (s.setRx (Memory.write s.eng.rxBuf s.eng.rxCount d) (s.eng.rxCount + 1)) :=
  { h with
    rxCanonical := Memory.wf_write h.rxCanonical hc
    rxCountLe := hc
    rxStored := fun i hi => by
      show (Memory.read (Memory.write _ _ _) i).isSome = true
      rw [Memory.read_write]
      split
      · rfl
      · rename_i hne; exact h.rxStored i (Nat.lt_of_le_of_ne (Nat.le_of_lt_succ hi) hne)
    validated := fun hq => by simp [hp] at hq
    unicastAddress := fun hq => by simp [hp] at hq }

theorem inv_absorb (d : Byte) (err : Bool) (t : Time) (h : Inv s) (hp : s.eng.phase = .reception) :
    Inv (absorb d err t s) := by
  obtain hc | hc := Nat.lt_or_ge s.eng.rxCount Config.bufferCap
  · rw [absorb_room hc]
    exact { inv_lineError err (inv_storeByte d h hp hc) with }
  · rw [absorb_full hc]
    have hi : Inv (s.setIntegrity false) := { h with }
    exact { inv_lineError err (inv_inc (k := .overrun) hi nofun nofun) with }

/-- A frame starts as an empty frame in RECEPTION that absorbs its first byte (R135). -/
theorem inv_startFrame (d : Byte) (err : Bool) (t : Time) (h : Inv s)
    (hp : s.eng.phase = .idle ∨ s.eng.phase = .emission ∧ s.eng.txPending = false) : Inv (startFrame d err t s) := by
  have hx : s.eng.txPending = false := hp.elim (fun hp => not_pending_of_phase h (by rw [hp]; nofun)) And.right
  have hq : Inv (s.setPhase .reception) := inv_setPhase h (fun hx' => by rw [hx] at hx'; cases hx') nofun nofun
  have he : Inv (((s.setRx s.eng.rxBuf 0).setIntegrity true).setPhase .reception) :=
    { hq with
      rxCountLe := Nat.zero_le _
      rxStored := fun _ hi => absurd hi (Nat.not_lt_zero _)
      validated := fun hr => hr.elim nofun nofun }
  exact inv_absorb d err t he rfl

/-! ### The validator -/

theorem inv_rejectFrame (h : Inv s) (hs : s.eng.phase ≠ .emission) : Inv (rejectFrame s) :=
  inv_setPhase_of_ne (inv_inc h nofun nofun) hs nofun nofun

/-- The first byte of a received frame is the first cell. -/
theorem rxFrame_first {frame : List Byte} (hf : rxFrame s = .ok frame) (hl : 0 < s.eng.rxCount) :
    Memory.read s.eng.rxBuf 0 = frame[0]? := by
  simpa using ((readCells_spec hf).2 0 hl).2.1.symm

/-- A validated frame may be processed; to be answered, it must not be a broadcast (R162, R163, R166). -/
theorem inv_setProcessing {p : Phase} {frame : List Byte} (h : Inv s) (hs : s.eng.phase ≠ .emission)
    (hl : 3 < s.eng.rxCount) (hf : rxFrame s = .ok frame) (hc : crcMatches frame = true)
    (ha : p = .processingResponse → frame[0]? ≠ some 0) : Inv (s.setPhase p) :=
  { h with
    pendingEmission := fun hx => absurd (h.pendingEmission hx) hs
    validated := fun _ => ⟨hl, fun g hg => by cases hf.symm.trans hg; exact hc⟩
    unicastAddress := fun hp => by
      show Memory.read s.eng.rxBuf 0 ≠ some 0
      rw [rxFrame_first hf (Nat.zero_lt_of_lt hl)]
      exact ha hp }

theorem inv_filterAddress {frame : List Byte} (h : Inv s) (hs : s.eng.phase ≠ .emission) (hl : 3 < s.eng.rxCount)
    (hf : rxFrame s = .ok frame) (hc : crcMatches frame = true) : Inv (filterAddress (frame.getD 0 0) s) := by
  unfold filterAddress
  split
  · exact inv_setProcessing (inv_inc h nofun nofun) hs hl hf hc nofun
  · rename_i hb
    split
    · refine inv_setProcessing (inv_inc h nofun nofun) hs hl hf hc fun _ h0 => hb ?_
      rw [List.getD_eq_getElem?_getD, h0]; rfl
    · exact inv_setPhase_of_ne h hs nofun nofun

/-! ### The dispatcher -/

/-- A commit in a PROCESSING phase of a reply that is not too short, leaves room for its CRC, and, when it is to be sent, does not
begin with the broadcast address (R196). -/
theorem inv_commit {reply : List Byte} {t : State} (h : Inv s) (hs : s.eng.phase ≠ .emission)
    (hl : 3 ≤ reply.length ∧ reply.length ≤ 253) (ha : s.eng.phase = .processingResponse → reply[0]? ≠ some 0)
    (ht : commit reply s = .next t) : Inv t := by
  unfold commit at ht
  split at ht
  · rename_i hp
    split at ht
    · cases ht
    · rename_i m hm
      cases ht
      have hx := not_pending_of_phase h hs
      have he := emit_eq_arm_of_not_pending h hx
      have hread : ∀ i < reply.length, Memory.read m i = reply[i]? := fun i hi => by
        simp [writeBytes_spec hm i, hi]
      exact { h with
        txCanonical := writeBytes_wf h.txCanonical hm
        txLenLe := Nat.le_trans hl.2 (by decide)
        txStored := fun i hi => by
          show (Memory.read m i).isSome = true
          rw [hread i hi, List.getElem?_eq_getElem hi]; rfl
        txIdxLe := (h.armIndexZero he).le.trans (Nat.zero_le _)
        sendingPending := fun _ => rfl
        pendingEmission := fun _ => rfl
        noReplyNoLength := nofun
        replyLength := fun _ _ => hl
        sendIndexLt := fun hq => by cases he.symm.trans hq
        crcTerminated := fun hq => absurd he hq
        validated := fun hq => hq.elim nofun nofun
        unicastAddress := nofun
        replyAddress := fun _ => by
          show Memory.read m 0 ≠ some 0
          rw [hread 0 (Nat.lt_of_lt_of_le (by decide) hl.1)]
          exact ha hp }
  · cases ht
    exact inv_setPhase h (fun _ => rfl) nofun nofun

/-- A request of a validated frame: each of the three shapes commits a reply that fits, from a state that has the invariant. -/
theorem inv_exec {i : Instr} {t : State} (h : Inv s) (hn : s.params.nInputs ≤ 2000) (hs : s.eng.phase ≠ .emission)
    (hi : i.direction = .request) (ha : s.eng.phase = .processingResponse → i.address ≠ 0)
    (ht : exec i s = .next t) : Inv t := by
  have hshape := exec_shape i s
  generalize exec i s = r at ht hshape
  cases hshape with
  | exception f code =>
    exact inv_commit (inv_inc (k := .exc) h nofun nofun) hs (by simp) (by simpa using ha) ht
  | reply reply first _ fits =>
    have hl := fits hi
    simp only [byteCount] at hl
    exact inv_commit h hs (by omega) (by simpa [first] using ha) ht
  | coil c v _ inside _ =>
    have hc : Inv (s.setCoil (Table.set s.eng.coil c.toNat (v == 0xFF00#16))) :=
      { h with coilCanonical := Table.wf_set h.coilCanonical inside }
    exact inv_commit hc hs (by simp [writeCoilReply]) (by simpa [writeCoilReply] using ha) ht

/-! ### The emitter -/

/-- The buffer with the CRC appended is the reply followed by its CRC (R212). -/
theorem txFrame_of_crc_written {m : List Host.Cell} {reply : List Byte} (hr : txFrame s = .ok reply)
    (hm : writeBytes .tx s.eng.txBuf s.eng.txLen (crcBytes reply) = .ok m) :
    readCells .tx m (s.eng.txLen + 2) 0 (s.eng.txLen + 2) = .ok (reply ++ crcBytes reply) := by
  obtain ⟨hl, hv⟩ := readCells_spec hr
  refine readCells_of_getElem? (by simp [hl]) fun j hj => ⟨by omega, ?_⟩
  rw [Nat.zero_add, writeBytes_spec hm]
  split
  · rename_i hge
    rw [List.getElem?_append_right (by omega), hl, List.getElem?_eq_getElem (by simp; omega)]
    rfl
  · rename_i hlt
    rw [List.getElem?_append_left (by omega), (hv j (by omega)).2.1, Nat.zero_add]

theorem inv_lineTurned {m : List Host.Cell} {reply : List Byte} (h : Inv s) (he : s.eng.emit = .arm)
    (hx : s.eng.txPending = true) (hr : txFrame s = .ok reply)
    (hm : writeBytes .tx s.eng.txBuf s.eng.txLen (crcBytes reply) = .ok m) :
    Inv ((((s.setTx m (s.eng.txLen + 2)).setLine true false).setTxIdx 0).setEmit .send) := by
  obtain ⟨h3, h253⟩ := h.replyLength hx he
  have hcrc := txFrame_of_crc_written hr hm
  obtain ⟨hlen, hcells⟩ := readCells_spec hcrc
  exact { h with
    txCanonical := writeBytes_wf h.txCanonical hm
    txLenLe := Nat.le_trans (Nat.add_le_add_right h253 2) (by decide)
    txStored := fun i hi => by simpa using (hcells i hi).2.2
    txIdxLe := Nat.zero_le _
    rxEnNotDe := rfl
    deIffSending := rfl
    sendingPending := fun _ => hx
    noReplyNoLength := fun hq => by cases hx.symm.trans hq
    armIndexZero := nofun
    replyLength := fun _ => nofun
    sendIndexLt := fun _ => Nat.zero_lt_succ _
    crcTerminated := fun _ frame hframe => by
      cases hcrc.symm.trans hframe
      exact ⟨by rw [hlen]; omega, crcMatches_append_crcBytes reply⟩
    replyAddress := fun _ => by
      show Memory.read m 0 ≠ some 0
      rw [writeBytes_spec hm, if_neg (by omega)]
      exact h.replyAddress hx }

/-- A byte handed over while the line is driven; the index reaches `tx_len` exactly with E_FLUSH (R213, R214). -/
theorem inv_byteSent (v : Byte) (h : Inv s) (he : s.eng.emit = .send) :
    Inv (((send v s).setTxIdx (s.eng.txIdx + 1)).setEmit
      (if s.eng.txIdx + 1 = s.eng.txLen then .flush else s.eng.emit)) := by
  have hlt := h.sendIndexLt he
  have hne : s.eng.emit ≠ .arm := by rw [he]; nofun
  have hde : s.eng.de = true := by rw [h.deIffSending, he]; rfl
  have hnext : (if s.eng.txIdx + 1 = s.eng.txLen then .flush else s.eng.emit) ≠ Emit.arm := by
    split <;> [nofun; exact hne]
  exact { h with
    txIdxLe := hlt
    deIffSending := hde.trans (bne_iff_ne.2 hnext).symm
    sendingPending := fun _ => h.sendingPending hne
    armIndexZero := fun hq => absurd hq hnext
    replyLength := fun _ hq => absurd hq hnext
    sendIndexLt := fun hq => by
      change (if _ then _ else _) = _ at hq
      split at hq
      · cases hq
      · exact Nat.lt_of_le_of_ne hlt ‹_›
    crcTerminated := fun _ => h.crcTerminated hne
    sentDriving := fun x hx => by
      obtain hx | hx := List.mem_append.1 hx
      · exact h.sentDriving x hx
      · rw [List.mem_singleton.1 hx]; exact hde }

theorem inv_releaseLine (h : Inv s) : Inv (releaseLine s) :=
  { h with
    txLenLe := Nat.zero_le _
    txStored := fun _ hi => absurd hi (Nat.not_lt_zero _)
    txIdxLe := Nat.le_refl _
    rxEnNotDe := rfl
    deIffSending := rfl
    sendingPending := fun hq => absurd rfl hq
    pendingEmission := nofun
    noReplyNoLength := fun _ => rfl
    armIndexZero := fun _ => rfl
    replyLength := nofun
    sendIndexLt := nofun
    crcTerminated := fun hq => absurd rfl hq
    validated := fun hq => hq.elim nofun nofun
    unicastAddress := nofun
    replyAddress := nofun }

/-! ### Any move, any step -/

theorem ne_emission_of_processing {p : Phase} (hp : p = .processingResponse ∨ p = .processingNoResponse) : p ≠ .emission := by
  obtain rfl | rfl := hp <;> nofun

/-- Each move of the engine keeps the invariant. -/
theorem EngineMove.inv {e : Event} {t : State} (hm : EngineMove s e t) (h : Inv s) (hn : s.params.nInputs ≤ 2000) : Inv t := by
  cases hm with
  | byteLost => exact h
  | byteDropped => exact inv_lineError _ h
  | frameStarted d _ _ _ t hp => exact inv_startFrame d _ t h hp
  | byteAbsorbed d _ _ _ t hp => exact inv_absorb d _ t h hp
  | byteLate _ _ _ _ t hp => exact inv_intrude t (inv_setPhase_of_ne h (by rw [hp]; nofun) nofun nofun)
  | byteIntruded _ _ _ _ t => exact inv_intrude t h
  | waited => exact h
  | initLeft _ _ _ hp => exact inv_setPhase_of_ne h (by rw [hp]; nofun) nofun nofun
  | receptionEnded _ _ _ hp => exact inv_setPhase_of_ne h (by rw [hp]; nofun) nofun nofun
  | frameRejected _ _ _ hp => exact inv_rejectFrame h (by rw [hp]; nofun)
  | frameFiltered _ _ _ frame hp _ hl hf hc =>
    exact inv_filterAddress (inv_inc h nofun nofun) (by rw [inc_phase, hp]; nofun) hl hf hc
  | requestRun _ _ _ frame i _ hp _ _ hf hd hrun =>
    obtain ⟨hi, hfirst⟩ := decodeRequest_ok hd
    refine inv_exec h hn (ne_emission_of_processing hp) hi (fun hpr h0 => ?_) hrun
    refine h.unicastAddress hpr ?_
    rw [rxFrame_first hf (Nat.zero_lt_of_lt (h.validated hp).1), hfirst, h0]
  | requestAbandoned _ _ _ hp => exact inv_rejectFrame h (ne_emission_of_processing hp)
  | discardEnded => exact inv_setPhase h (fun _ => rfl) nofun nofun
  | nothingToSend _ _ _ _ _ hx => exact inv_setPhase h (fun hx' => by cases hx.symm.trans hx') nofun nofun
  | lineTurned _ _ _ reply m _ he hx hr hw => exact inv_lineTurned h he hx hr hw
  | byteSent _ _ v _ he => exact inv_byteSent v h he
  | lineReleased => exact inv_releaseLine h

end Sys2Proof.Machine

namespace Sys2Proof.Proofs

open Sys2Proof.Machine Sys2Proof.Safety

/-- Settles O47: the invariant holds after a reset, survives the host writes of an input, and each move of the engine keeps it. -/
theorem everyStepKeepsInvariant : Obligations.EveryStepKeepsInvariant := by
  intro s t h hst
  have hw := inv_hostWrites (hostPorts (nextInput s)) (inv_afterInput h)
  obtain ⟨-, rfl⟩ | ⟨-, rfl | ⟨e, hm⟩⟩ := step_cases hst
  · exact inv_resetEngine h.sentDriving
  · exact hw
  · refine hm.inv hw ?_
    rw [hostWrites_params, afterInput_params]
    exact Params.nInputs_le (params_ok_of_step hst)

end Sys2Proof.Proofs
end

section
/-! What a step leaves alone: the parameters, the stub banks, the counters but for their growth, and each bit and the address but for
the host operation or the command that names them. -/

namespace Sys2Proof.Machine

open Sys2Proof.Safety

variable {s : State}

/-! ### The host writes of an input -/

@[simp] theorem hostWrites_phase (p : PortsIn) (s : State) : (hostWrites p s).eng.phase = s.eng.phase := by rw [hostWrites_eq]
@[simp] theorem hostWrites_integrityOk (p : PortsIn) (s : State) : (hostWrites p s).eng.integrityOk = s.eng.integrityOk := by
  rw [hostWrites_eq]
@[simp] theorem hostWrites_ireg (p : PortsIn) (s : State) : (hostWrites p s).eng.ireg = s.eng.ireg := by rw [hostWrites_eq]
@[simp] theorem hostWrites_hreg (p : PortsIn) (s : State) : (hostWrites p s).eng.hreg = s.eng.hreg := by rw [hostWrites_eq]
@[simp] theorem hostWrites_cnt (p : PortsIn) (s : State) : (hostWrites p s).eng.cnt = s.eng.cnt := by rw [hostWrites_eq]
@[simp] theorem rxFrame_hostWrites (p : PortsIn) (s : State) : rxFrame (hostWrites p s) = rxFrame s := by
  rw [hostWrites_eq]; rfl

theorem hostWritesAddr_eq (i : Input) : hostWritesAddr i = (hostPorts i).addrWe := by
  cases i with
  | event e => cases e <;> rfl
  | clock p => rfl

theorem hostWritesInput_eq (k : Nat) (i : Input) :
    hostWritesInput k i = ((hostPorts i).diWe && (hostPorts i).diWidx.toNat == k) := by
  cases i with
  | event e => cases e <;> rfl
  | clock p => rfl

theorem hostWritesCoil_eq (k : Nat) (i : Input) :
    hostWritesCoil k i = ((hostPorts i).coilWe && (hostPorts i).coilWidx.toNat == k) := by
  cases i with
  | event e => cases e <;> rfl
  | clock p => rfl

theorem hostWrites_slaveAddr {i : Input} (h : hostWritesAddr i = false) :
    (hostWrites (hostPorts i) s).eng.slaveAddr = s.eng.slaveAddr := by
  rw [hostWritesAddr_eq] at h
  rw [hostWrites_eq, h]; rfl

/-- A bit that a write port does not name keeps its level. -/
theorem Table.get_portWrite {n k : Nat} {t : List Word} {we v : Bool} {idx : Word} (ht : Table.wf n t = true)
    (h : (we && idx.toNat == k) = false) :
    Table.get (if we = true ∧ idx.toNat < n then Table.set t idx.toNat v else t) k = Table.get t k := by
  split
  · rename_i hw
    obtain ⟨rfl, hlt⟩ := hw
    exact Table.get_set_other ht hlt (by simpa using h)
  · rfl

theorem get_di_hostWrites {i : Input} {k : Nat} (ht : Table.wf s.params.nInputs s.eng.di = true)
    (h : hostWritesInput k i = false) :
    Table.get (hostWrites (hostPorts i) s).eng.di k = Table.get s.eng.di k := by
  rw [hostWrites_eq]
  exact Table.get_portWrite ht (hostWritesInput_eq k i ▸ h)

theorem get_coil_hostWrites {i : Input} {k : Nat} (ht : Table.wf s.params.nCoils s.eng.coil = true)
    (h : hostWritesCoil k i = false) :
    Table.get (hostWrites (hostPorts i) s).eng.coil k = Table.get s.eng.coil k := by
  rw [hostWrites_eq]
  exact Table.get_portWrite ht (hostWritesCoil_eq k i ▸ h)

theorem wf_coil_hostWrites (p : PortsIn) (ht : Table.wf s.params.nCoils s.eng.coil = true) :
    Table.wf s.params.nCoils (hostWrites p s).eng.coil = true := by
  rw [hostWrites_eq]
  show Table.wf _ (ite _ _ _) = true
  split
  · rename_i hw; exact Table.wf_set ht hw.2
  · exact ht

/-! ### The moves of the engine -/

/-- What no move of the engine touches; the counters grow, and the coil table becomes the one told. -/
structure EngineFrame (coil : List Word) (s t : State) : Prop where
  params : t.params = s.params
  slaveAddr : t.eng.slaveAddr = s.eng.slaveAddr
  di : t.eng.di = s.eng.di
  ireg : t.eng.ireg = s.eng.ireg
  hreg : t.eng.hreg = s.eng.hreg
  cnt : CountersGrow s.eng.cnt t.eng.cnt
  coil : t.eng.coil = coil

namespace EngineFrame

theorem refl (s : State) : EngineFrame s.eng.coil s s := ⟨rfl, rfl, rfl, rfl, rfl, .refl _, rfl⟩

theorem lineError (err : Bool) (s : State) : EngineFrame s.eng.coil s (lineError err s) := by
  cases err with
  | false => exact refl s
  | true => exact { refl s with }

theorem absorb (d : Byte) (err : Bool) (t : Time) (s : State) : EngineFrame s.eng.coil s (absorb d err t s) := by
  obtain hc | hc := Nat.lt_or_ge s.eng.rxCount Config.bufferCap
  · rw [absorb_room hc]
    exact { lineError err (s.setRx (Memory.write s.eng.rxBuf s.eng.rxCount d) (s.eng.rxCount + 1)) with }
  · rw [absorb_full hc]
    have hl := lineError err (inc .overrun (s.setIntegrity false))
    exact { hl with cnt := (CountersGrow.inc (k := .overrun) (s.setIntegrity false) nofun nofun).trans hl.cnt }

theorem rejectFrame (s : State) : EngineFrame s.eng.coil s (rejectFrame s) :=
  { refl s with cnt := .inc (k := .busErr) s nofun nofun }

theorem filterAddress (a : Byte) (s : State) : EngineFrame s.eng.coil s (filterAddress a s) := by
  unfold Machine.filterAddress
  split
  · exact { refl s with cnt := .inc (k := .noResp) s nofun nofun }
  · split
    · exact { refl s with cnt := .inc (k := .slaveMsg) s nofun nofun }
    · exact { refl s with }

theorem of_exec {i : Instr} {t : State} (h : exec i s = .next t) : EngineFrame t.eng.coil s t :=
  have he := exec_effect h
  have hf := he.frame
  ⟨hf.params, hf.slaveAddr, hf.di, hf.ireg, hf.hreg, he.countersGrow, rfl⟩

end EngineFrame

/-- No move touches the coil table, but the run of a request (R38, R190). -/
theorem EngineMove.frame_or_run {e : Event} {t : State} (h : EngineMove s e t) :
    EngineFrame s.eng.coil s t ∨
    ((s.eng.phase = .processingResponse ∨ s.eng.phase = .processingNoResponse) ∧ s.eng.integrityOk = true ∧
      ∃ frame i, rxFrame s = .ok frame ∧ decodeRequest frame = .ok i ∧ exec i s = .next t) := by
  cases h with
  | requestRun _ _ _ frame i _ hp _ hok hf hd hrun => exact .inr ⟨hp, hok, frame, i, hf, hd, hrun⟩
  | byteDropped => exact .inl (.lineError _ s)
  | frameStarted d _ _ _ t => exact .inl (by rw [startFrame_eq]; exact { EngineFrame.refl s with })
  | byteAbsorbed d _ _ _ t => exact .inl (.absorb d _ t s)
  | frameRejected => exact .inl (.rejectFrame s)
  | requestAbandoned => exact .inl (.rejectFrame s)
  | frameFiltered _ _ _ frame =>
    have hf := EngineFrame.filterAddress (frame.getD 0 0) (inc .busMsg s)
    exact .inl { hf with cnt := (CountersGrow.inc (k := .busMsg) s nofun nofun).trans hf.cnt }
  | _ => exact .inl { EngineFrame.refl s with }

theorem EngineMove.frame {e : Event} {t : State} (h : EngineMove s e t) : EngineFrame t.eng.coil s t := by
  obtain hf | ⟨-, -, frame, i, -, -, hrun⟩ := h.frame_or_run
  · exact { hf with coil := rfl }
  · exact .of_exec hrun

/-! ### Any step -/

/-- What a step that is no reset leaves alone. -/
theorem step_frame {t : State} (h : step s = .next t) (hr : resets (nextInput s) = false) :
    EngineFrame t.eng.coil (hostWrites (hostPorts (nextInput s)) (afterInput s)) t := by
  obtain ⟨hr', -⟩ | ⟨-, rfl | ⟨e, hm⟩⟩ := step_cases h
  · cases hr.symm.trans hr'
  · exact .refl _
  · exact hm.frame

theorem step_cnt {t : State} (h : step s = .next t) (hr : resets (nextInput s) = false) :
    CountersGrow s.eng.cnt t.eng.cnt := by
  simpa using (step_frame h hr).cnt

theorem step_params {t : State} (h : step s = .next t) : t.params = s.params := by
  obtain ⟨-, rfl⟩ | ⟨hr, -⟩ := step_cases h
  · rfl
  · exact (step_frame h hr).params.trans (hostWrites_params ..)

/-- No pseudo-form is decoded: their words are those of the `WSC` they expand to (R111). -/
theorem decodeRequest_core {frame : List Byte} {i : Instr} (h : decodeRequest frame = .ok i) : i.core = i := by
  unfold decodeRequest at h
  split at h
  · split at h
    · cases h
    · split at h
      · cases h
      · cases h; unfold decodeRequestParts; split <;> [rfl; (split <;> rfl)]
  · cases h

/-- A decoded request that changes a coil is a `WSC` that names it, and the coil takes the level asked for (R190). -/
theorem coil_changed_by_exec {frame : List Byte} {i : Instr} {t : State} {k : Nat}
    (hw : Table.wf s.params.nCoils s.eng.coil = true) (hd : decodeRequest frame = .ok i) (hrun : exec i s = .next t)
    (hne : Table.get t.eng.coil k ≠ Table.get s.eng.coil k) :
    ∃ a c v, i = .wsc a (.fields c v) ∧ c.toNat = k ∧ k < s.params.nCoils ∧
      Table.get t.eng.coil k = decide (v = 0xFF00#16) := by
  obtain hsame | ⟨c, v, hin, named, hset⟩ := (exec_effect hrun).coil_cases
  · rw [hsame] at hne; exact absurd rfl hne
  · have hcore := decodeRequest_core hd
    have hi : i = .wsc i.address (.fields c v) := by
      obtain hi | hi | hi := named
      · exact hi
      · rw [hi] at hcore; cases hcore
      · rw [hi] at hcore; cases hcore
    have hk : c.toNat = k := by
      by_contra hck
      rw [hset, Table.get_set_other hw hin hck] at hne
      exact hne rfl
    subst hk
    refine ⟨_, c, v, hi, rfl, hin, ?_⟩
    obtain ⟨hl, -⟩ := Table.wf_iff.1 hw
    rw [hset, Table.get_set (by omega), if_pos rfl]
    rfl

end Sys2Proof.Machine

namespace Sys2Proof.Proofs

open Sys2Proof.Machine Sys2Proof.Safety

/-- Settles O51. -/
theorem countersNeverFall : Obligations.CountersNeverFall := fun _ _ k h hr => (step_cnt h hr).le k

/-- Settles O56. -/
theorem stubsAndParametersAreConstant : Obligations.StubsAndParametersAreConstant := fun _ _ h =>
  ⟨step_params h, fun hr =>
    ⟨by simpa using (step_frame h hr).ireg, by simpa using (step_frame h hr).hreg, (step_cnt h hr).nak, (step_cnt h hr).busy⟩⟩

/-- Settles O54: no move of the engine touches either, and a host write only what it names. -/
theorem inputsAndAddressChangeOnlyByHost : Obligations.InputsAndAddressChangeOnlyByHost := by
  intro s t h hr
  have hf := step_frame h hr
  refine ⟨fun i hw hi => ?_, fun ha => ?_⟩
  · rw [hf.di]; exact get_di_hostWrites hw hi
  · exact hf.slaveAddr.trans (hostWrites_slaveAddr ha)

/-- Settles O53: the host writes leave the coil, so it is a move of the engine that changed it, which only the run of a request
can. -/
theorem coilsChangeOnlyOnCommand : Obligations.CoilsChangeOnlyOnCommand := by
  intro s t i hw h hr hi hne
  have hhost : Table.get (hostWrites (hostPorts (nextInput s)) (afterInput s)).eng.coil i = Table.get s.eng.coil i :=
    get_coil_hostWrites hw hi
  obtain ⟨hr', -⟩ | ⟨-, rfl | ⟨e, hm⟩⟩ := step_cases h
  · cases hr.symm.trans hr'
  · exact absurd hhost hne
  · obtain hf | ⟨hp, hok, frame, instr, hrx, hd, hrun⟩ := hm.frame_or_run
    · rw [hf.coil] at hne; exact absurd hhost hne
    · obtain ⟨a, c, v, rfl, hc, hlt, hlevel⟩ :=
        coil_changed_by_exec (by rw [hostWrites_params]; exact wf_coil_hostWrites _ hw) hd hrun (by rw [hhost]; exact hne)
      simp only [hostWrites_phase, hostWrites_integrityOk, hostWrites_params, rxFrame_hostWrites] at hp hok hrx hlt
      exact ⟨hp, hok, frame, a, c, v, hrx, hd, hc, hlt, hlevel⟩

end Sys2Proof.Proofs
end

section
/-! The phase moves along the rows of the table of R23 and no others, and along each of them. -/

namespace Sys2Proof.Machine

open Sys2Proof.Safety

variable {s : State}

@[simp] theorem lineError_phase (err : Bool) (s : State) : (lineError err s).eng.phase = s.eng.phase := by cases err <;> rfl

@[simp] theorem absorb_phase (d : Byte) (err : Bool) (t : Time) (s : State) : (absorb d err t s).eng.phase = s.eng.phase := by
  obtain hc | hc := Nat.lt_or_ge s.eng.rxCount Config.bufferCap
  · rw [absorb_room hc]; exact lineError_phase ..
  · rw [absorb_full hc]; exact lineError_phase ..

@[simp] theorem startFrame_phase (d : Byte) (err : Bool) (t : Time) (s : State) :
    (startFrame d err t s).eng.phase = .reception := by rw [startFrame_eq]

/-- A received frame of 4 bytes or more has a first byte. -/
theorem rxFrame_getElem?_zero {frame : List Byte} (hf : rxFrame s = .ok frame) (hl : 3 < s.eng.rxCount) :
    frame[0]? = some (frame.getD 0 0) := by
  have hlen : 0 < frame.length := by rw [(readCells_spec hf).1]; omega
  rw [List.getD_eq_getElem?_getD, List.getElem?_eq_getElem hlen]; rfl

/-- The three rows that leave WAITING with a good frame: broadcast, own address, foreign (R165, R166, R167). -/
theorem phaseEdge_filterAddress {t : Time} {r f : Bool} {frame : List Byte} (hp : s.eng.phase = .waiting)
    (hok : s.eng.integrityOk = true) (hl : 3 < s.eng.rxCount) (hf : rxFrame s = .ok frame) (hc : crcMatches frame = true) :
    PhaseEdge s (.step t r f) (filterAddress (frame.getD 0 0) (inc .busMsg s)).eng.phase := by
  have hfirst := rxFrame_getElem?_zero hf hl
  unfold filterAddress
  split
  · rename_i h0
    exact .broadcast _ _ _ frame hp hok hl hf hc (hfirst.trans (congrArg some h0))
  · rename_i h0
    have hne0 : frame[0]? ≠ some 0 := fun h => h0 (Option.some.inj (hfirst.symm.trans h))
    split
    · rename_i ha
      exact .unicast _ _ _ frame hp hok hl hf hc hne0 (hfirst.trans (congrArg some ha))
    · rename_i ha
      exact .rejected _ _ _ hp (.inr (.inr ⟨frame, hf, .inr ⟨hne0, fun h => ha (Option.some.inj (hfirst.symm.trans h))⟩⟩))

/-- A move of the engine that changes the phase follows a row of the table. -/
theorem EngineMove.phaseEdge {e : Event} {t : State} (h : EngineMove s e t) (hne : t.eng.phase ≠ s.eng.phase) :
    PhaseEdge s e t.eng.phase := by
  cases h with
  | byteLost => exact absurd rfl hne
  | byteDropped => exact absurd (lineError_phase ..) hne
  | frameStarted d pe fe oe t hp =>
    rw [startFrame_phase]
    obtain hp | ⟨hp, hx⟩ := hp
    · exact .frameStart _ _ _ _ _ hp
    · exact .nextFrame _ _ _ _ _ hp hx
  | byteAbsorbed => exact absurd (absorb_phase ..) hne
  | byteLate _ _ _ _ _ hp hs => exact .lateByte _ _ _ _ _ hp (charTimeout_iff.1 hs)
  | byteIntruded => exact absurd rfl hne
  | waited => exact absurd rfl hne
  | initLeft _ _ _ hp => exact .leaveInit _ _ _ hp
  | receptionEnded _ _ _ hp hs => exact .silenceSeen _ _ _ hp (charTimeout_iff.1 hs)
  | frameRejected _ _ _ hp hbad =>
    exact .rejected _ _ _ hp (hbad.imp_right (.imp_right fun ⟨frame, hf, hc⟩ => ⟨frame, hf, .inl hc⟩))
  | frameFiltered _ _ _ frame hp hok hl hf hc => exact phaseEdge_filterAddress hp hok hl hf hc
  | requestRun _ _ _ frame i _ hp hs hok _ _ hrun =>
    rw [(exec_effect hrun).frame.phase]
    exact .dispatched _ _ _ hp (frameTimeout_iff.1 hs) hok
  | requestAbandoned _ _ _ hp hs hok => exact .abandoned _ _ _ hp (frameTimeout_iff.1 hs) hok
  | discardEnded _ _ _ hp hs => exact .discardOver _ _ _ hp (frameTimeout_iff.1 hs)
  | nothingToSend _ _ _ hp he hx => exact .nothingToSend _ _ _ hp he hx
  | lineTurned => exact absurd rfl hne
  | byteSent => exact absurd rfl hne
  | lineReleased _ _ hp he => exact .flushed _ _ hp he

/-! ### Along every row -/

/-- Reception is enabled whenever nothing is pending (R32, R46). -/
theorem rxEn_of_not_pending (h : Inv s) (hx : s.eng.txPending = false) : s.eng.rxEn = true := by
  rw [h.rxEnNotDe, h.deIffSending, emit_eq_arm_of_not_pending h hx]; rfl

theorem rxByte_enabled_of_inv (h : Inv s) (hx : s.eng.txPending = false) (d : Byte) (pe fe oe : Bool) (t : Time) :
    applyEvent (.rxByte d pe fe oe t) s = .next (receiveByte d (pe || fe || oe) t s) :=
  congrArg _ (rxByte_enabled (rxEn_of_not_pending h hx) d pe fe oe t)

/-- A validated frame with another address is dropped. -/
theorem validate_foreign {frame : List Byte} (hok : s.eng.integrityOk = true) (hl : 3 < s.eng.rxCount)
    (hf : rxFrame s = .ok frame) (hc : crcMatches frame = true) (h0 : frame[0]? ≠ some 0)
    (ha : frame[0]? ≠ some s.eng.slaveAddr) : validate s = .next ((inc .busMsg s).setPhase .discard) := by
  have hfirst := rxFrame_getElem?_zero hf hl
  rw [validate_accept hok hl hf hc, filterAddress_foreign]
  · exact fun h => h0 (h ▸ hfirst)
  · exact fun h => ha (hfirst.trans (congrArg some h))

/-- Whatever makes the validator reject a frame, or drop it as foreign, the phase becomes DISCARD. -/
theorem validate_discards (hbad : s.eng.integrityOk = false ∨ s.eng.rxCount ≤ 3 ∨ ∃ frame, rxFrame s = .ok frame ∧
      (crcMatches frame = false ∨ (frame[0]? ≠ some 0 ∧ frame[0]? ≠ some s.eng.slaveAddr))) :
    ∃ t, validate s = .next t ∧ t.eng.phase = .discard := by
  by_cases hr : s.eng.integrityOk = false ∨ s.eng.rxCount ≤ 3 ∨ ∃ frame, rxFrame s = .ok frame ∧ crcMatches frame = false
  · exact ⟨_, validate_reject hr, rfl⟩
  · simp only [not_or, not_exists, not_and, Bool.not_eq_false, Nat.not_le] at hr
    obtain ⟨hok, hl, hcrc⟩ := hr
    obtain hb | hb | ⟨frame, hf, hb | ⟨h0, ha⟩⟩ := hbad
    · cases hok.symm.trans hb
    · omega
    · cases (hcrc frame hf).symm.trans hb
    · exact ⟨_, validate_foreign hok hl hf (hcrc frame hf) h0 ha, rfl⟩

/-- A row of the table whose condition holds is followed. -/
theorem phase_follows_edge {e : Event} {q : Phase} (h : Inv s) (hn : s.params.nInputs ≤ 2000) (hq : PhaseEdge s e q) :
    ∃ t, applyEvent e s = .next t ∧ t.eng.phase = q := by
  cases hq with
  | reset => exact ⟨_, rfl, rfl⟩
  | leaveInit t r f hp => exact ⟨_, engineStep_init hp t r f, rfl⟩
  | frameStart d pe fe oe t hp =>
    have hx := not_pending_of_phase h (by rw [hp]; nofun)
    exact ⟨_, (rxByte_enabled_of_inv h hx ..).trans (congrArg _ (receiveByte_idle hp ..)), startFrame_phase ..⟩
  | silenceSeen t r f hp hs =>
    exact ⟨_, (engineStep_reception hp t r f).trans (congrArg _ (if_pos (charTimeout_iff.2 hs))), rfl⟩
  | lateByte d pe fe oe t hp hs =>
    have hx := not_pending_of_phase h (by rw [hp]; nofun)
    have hb := (receiveByte_reception hp d (pe || fe || oe) t).trans (if_pos (charTimeout_iff.2 hs))
    exact ⟨_, (rxByte_enabled_of_inv h hx ..).trans (congrArg _ hb), rfl⟩
  | rejected t r f hp hbad =>
    obtain ⟨u, hu, hd⟩ := validate_discards hbad
    exact ⟨u, (engineStep_waiting hp t r f).trans hu, hd⟩
  | unicast t r f frame hp hok hl hf hc h0 ha =>
    have hfirst := rxFrame_getElem?_zero hf hl
    have haddr : frame.getD 0 0 = s.eng.slaveAddr := Option.some.inj (hfirst.symm.trans ha)
    have hne : s.eng.slaveAddr ≠ 0 := fun hz => h0 (hz ▸ ha)
    refine ⟨_, (engineStep_waiting hp t r f).trans (validate_accept hok hl hf hc), ?_⟩
    rw [haddr]
    exact congrArg (·.eng.phase) (filterAddress_unicast (s := inc .busMsg s) hne)
  | broadcast t r f frame hp hok hl hf hc h0 =>
    have hfirst := rxFrame_getElem?_zero hf hl
    have haddr : frame.getD 0 0 = 0 := Option.some.inj (hfirst.symm.trans h0)
    refine ⟨_, (engineStep_waiting hp t r f).trans (validate_accept hok hl hf hc), ?_⟩
    rw [haddr, filterAddress_broadcast]; rfl
  | dispatched t r f hp hs hok =>
    obtain ⟨u, hu⟩ := dispatch_goesOn h hn hp
    obtain ⟨frame, i, -, -, hrun⟩ := dispatch_cases hu
    exact ⟨u, (engineStep_processing hp t r f).trans ((stepProcessing_dispatch (frameTimeout_iff.2 hs) hok).trans hu),
      (exec_effect hrun).frame.phase⟩
  | abandoned t r f hp hs hok =>
    exact ⟨_, (engineStep_processing hp t r f).trans (stepProcessing_abandon (frameTimeout_iff.2 hs) hok), rfl⟩
  | discardOver t r f hp hs =>
    exact ⟨_, (engineStep_discard hp t r f).trans (congrArg _ (if_pos (frameTimeout_iff.2 hs))), rfl⟩
  | nothingToSend t r f hp he hx =>
    exact ⟨_, (engineStep_emission hp t r f).trans ((emitter_arm he r f).trans (emitArm_idle hx)), rfl⟩
  | flushed t r hp he => exact ⟨_, (engineStep_emission hp t r true).trans (emitter_flush he r true), rfl⟩
  | nextFrame d pe fe oe t hp hx =>
    exact ⟨_, (rxByte_enabled_of_inv h hx ..).trans (congrArg _ (receiveByte_emission hp hx ..)), startFrame_phase ..⟩

end Sys2Proof.Machine

namespace Sys2Proof.Proofs

open Sys2Proof.Machine Sys2Proof.Safety

/-- Settles O50: the moves of the engine that change the phase are rows of the table, and each row is a case of the step. -/
theorem phaseMovesExactlyAsTabled : Obligations.PhaseMovesExactlyAsTabled := by
  refine ⟨fun s t e h hne => ?_, fun s e q h hok hq => phase_follows_edge h (Params.nInputs_le hok) hq⟩
  obtain ⟨rfl, rfl⟩ | rfl | hm := applyEvent_cases h
  · exact .reset
  · exact absurd (hostWrites_phase ..) hne
  · exact hm.phaseEdge hne

end Sys2Proof.Proofs
end

section
/-! Stale cells of the receive buffer influence nothing (R33): a step run beside itself with another buffer that agrees below
`rx_count` does the same, and leaves two buffers that agree below the new `rx_count`. -/

namespace Sys2Proof.Machine

open Sys2Proof.Safety

/-- The state with another receive buffer in place of its own, the count as it is. -/
def State.withRxBuf (s : State) (m : List Host.Cell) : State := s.setRx m s.eng.rxCount

/-- The next state of an operation, if it goes on, seen through a function. -/
def mapNext (g : State → State) : Result → Result
  | .next u => .next (g u)
  | .fault f => .fault f
  | .refused r => .refused r

/-- Two results of one operation: next states that differ in stale cells alone, or the same stop. -/
inductive StaleAlike : Result → Result → Prop
  | next {u u' : State} (same : SameButStale u u') : StaleAlike (.next u) (.next u')
  | fault (f : Fault) : StaleAlike (.fault f) (.fault f)
  | refused (r : Refusal) : StaleAlike (.refused r) (.refused r)

theorem eq_withRxBuf_of_sameButStale {s t : State} (h : SameButStale s t) : t = s.withRxBuf t.eng.rxBuf := by
  have he : { s.eng with rxBuf := t.eng.rxBuf } = t.eng :=
    congrArg (fun e : Engine => { e with rxBuf := t.eng.rxBuf }) h.eng
  show t = { params := s.params, eng := { s.eng with rxBuf := t.eng.rxBuf }, env := s.env }
  rw [he, h.params, h.env]

/-- A frame is read from cells below the count alone. -/
theorem readCells_congr {sp : Space} {buf buf' : List Host.Cell} {len : Nat}
    (h : ∀ i < len, Memory.read buf i = Memory.read buf' i) (n i : Nat) :
    readCells sp buf len i n = readCells sp buf' len i n := by
  have hc : ∀ i, readCell sp buf len i = readCell sp buf' len i := fun i => by
    unfold readCell
    split
    · rename_i hi; rw [h i hi]
    · rfl
  induction n generalizing i with
  | zero => rfl
  | succ n ih => simp only [readCells, hc, ih]

variable (s : State) (m : List Host.Cell)

@[simp] theorem withRxBuf_params : (s.withRxBuf m).params = s.params := rfl
@[simp] theorem withRxBuf_phase : (s.withRxBuf m).eng.phase = s.eng.phase := rfl
@[simp] theorem withRxBuf_rxCount : (s.withRxBuf m).eng.rxCount = s.eng.rxCount := rfl
@[simp] theorem withRxBuf_integrityOk : (s.withRxBuf m).eng.integrityOk = s.eng.integrityOk := rfl
@[simp] theorem withRxBuf_txLen : (s.withRxBuf m).eng.txLen = s.eng.txLen := rfl
@[simp] theorem withRxBuf_txPending : (s.withRxBuf m).eng.txPending = s.eng.txPending := rfl
@[simp] theorem withRxBuf_txIdx : (s.withRxBuf m).eng.txIdx = s.eng.txIdx := rfl
@[simp] theorem withRxBuf_emit : (s.withRxBuf m).eng.emit = s.eng.emit := rfl
@[simp] theorem withRxBuf_txBuf : (s.withRxBuf m).eng.txBuf = s.eng.txBuf := rfl
@[simp] theorem withRxBuf_slaveAddr : (s.withRxBuf m).eng.slaveAddr = s.eng.slaveAddr := rfl
@[simp] theorem charTimeout_withRxBuf (t : Time) : charTimeout t (s.withRxBuf m) = charTimeout t s := rfl
@[simp] theorem frameTimeout_withRxBuf (t : Time) : frameTimeout t (s.withRxBuf m) = frameTimeout t s := rfl
@[simp] theorem txFrame_withRxBuf : txFrame (s.withRxBuf m) = txFrame s := rfl

/-! ### The processing step: nothing reads the receive buffer but the validator and the fetch, and nothing writes it -/

theorem commit_withRxBuf (reply : List Byte) :
    commit reply (s.withRxBuf m) = mapNext (·.withRxBuf m) (commit reply s) := by
  unfold commit
  rw [withRxBuf_phase, withRxBuf_txBuf]
  split
  · cases writeBytes .tx s.eng.txBuf 0 reply <;> rfl
  · rfl

theorem takeException_withRxBuf (a f : Byte) (code : ExcCode) :
    takeException a f code (s.withRxBuf m) = mapNext (·.withRxBuf m) (takeException a f code s) :=
  commit_withRxBuf (inc .exc s) m _

theorem readDiscreteInputs_withRxBuf (a : Byte) (start quantity : Nat) :
    readDiscreteInputs a start quantity (s.withRxBuf m) = mapNext (·.withRxBuf m) (readDiscreteInputs a start quantity s) := by
  unfold readDiscreteInputs
  rw [withRxBuf_params]
  split
  · exact takeException_withRxBuf s m ..
  · split
    · exact takeException_withRxBuf s m ..
    · exact commit_withRxBuf s m _

theorem writeSingleCoil_withRxBuf (a : Byte) (addr value : Word) :
    writeSingleCoil a addr value (s.withRxBuf m) = mapNext (·.withRxBuf m) (writeSingleCoil a addr value s) := by
  unfold writeSingleCoil
  rw [withRxBuf_params]
  split
  · exact takeException_withRxBuf s m ..
  · split
    · exact takeException_withRxBuf s m ..
    · exact commit_withRxBuf (s.setCoil (Table.set s.eng.coil addr.toNat (value == 0xFF00#16))) m _

theorem exec_withRxBuf (i : Instr) : exec i (s.withRxBuf m) = mapNext (·.withRxBuf m) (exec i s) := by
  cases i with
  | rdi a body =>
    cases body with
    | fields start quantity => exact readDiscreteInputs_withRxBuf s m ..
    | malformed p => exact takeException_withRxBuf s m ..
  | wsc a body =>
    cases body with
    | fields addr value => exact writeSingleCoil_withRxBuf s m ..
    | malformed p => exact takeException_withRxBuf s m ..
  | wscOn a addr => exact writeSingleCoil_withRxBuf s m a addr 0xFF00#16
  | wscOff a addr => exact writeSingleCoil_withRxBuf s m a addr 0x0000#16
  | illegal a f p => exact takeException_withRxBuf s m ..
  | rdiRsp a data => exact commit_withRxBuf s m (Instr.rdiRsp a data).bytes
  | wscRsp a c v => exact commit_withRxBuf s m (Instr.wscRsp a c v).bytes
  | exc a f code => exact takeException_withRxBuf s m ..

theorem filterAddress_withRxBuf (a : Byte) : filterAddress a (s.withRxBuf m) = (filterAddress a s).withRxBuf m := by
  unfold filterAddress
  rw [withRxBuf_slaveAddr]
  split <;> [rfl; (split <;> rfl)]

theorem emitArm_withRxBuf : emitArm (s.withRxBuf m) = mapNext (·.withRxBuf m) (emitArm s) := by
  unfold emitArm
  rw [withRxBuf_txPending, txFrame_withRxBuf, withRxBuf_txBuf, withRxBuf_txLen]
  split
  · cases txFrame s with
    | error f => rfl
    | ok reply =>
      dsimp only
      cases writeBytes .tx s.eng.txBuf s.eng.txLen (crcBytes reply) <;> rfl
  · rfl

theorem emitSend_withRxBuf (r : Bool) : emitSend r (s.withRxBuf m) = mapNext (·.withRxBuf m) (emitSend r s) := by
  unfold emitSend
  rw [withRxBuf_txBuf, withRxBuf_txLen, withRxBuf_txIdx]
  split
  · cases readCell .tx s.eng.txBuf s.eng.txLen s.eng.txIdx with
    | error f => rfl
    | ok v => dsimp only; split <;> rfl
  · rfl

theorem emitter_withRxBuf (r f : Bool) : emitter r f (s.withRxBuf m) = mapNext (·.withRxBuf m) (emitter r f s) := by
  unfold emitter
  rw [withRxBuf_emit]
  cases s.eng.emit with
  | arm => exact emitArm_withRxBuf s m
  | send => exact emitSend_withRxBuf s m r
  | flush => cases f <;> rfl

section Agreeing

variable {s m}
variable (hv : ∀ i < s.eng.rxCount, Memory.read s.eng.rxBuf i = Memory.read m i)
include hv

theorem rxFrame_withRxBuf : rxFrame (s.withRxBuf m) = rxFrame s :=
  (readCells_congr hv _ _).symm

theorem validate_withRxBuf : validate (s.withRxBuf m) = mapNext (·.withRxBuf m) (validate s) := by
  unfold validate
  rw [withRxBuf_integrityOk, withRxBuf_rxCount, rxFrame_withRxBuf hv]
  split
  · rfl
  · cases rxFrame s with
    | error f => rfl
    | ok frame =>
      dsimp only
      split
      · exact congrArg _ (filterAddress_withRxBuf (inc .busMsg s) m _)
      · rfl

theorem dispatch_withRxBuf : dispatch (s.withRxBuf m) = mapNext (·.withRxBuf m) (dispatch s) := by
  unfold dispatch
  rw [show fetch (s.withRxBuf m) = fetch s by unfold fetch; rw [rxFrame_withRxBuf hv]]
  cases fetch s with
  | error f => rfl
  | ok i => exact exec_withRxBuf s m i

theorem stepProcessing_withRxBuf (t : Time) :
    stepProcessing t (s.withRxBuf m) = mapNext (·.withRxBuf m) (stepProcessing t s) := by
  unfold stepProcessing
  rw [frameTimeout_withRxBuf, withRxBuf_integrityOk]
  split
  · split
    · exact dispatch_withRxBuf hv
    · rfl
  · rfl

theorem engineStep_withRxBuf (t : Time) (r f : Bool) :
    engineStep t r f (s.withRxBuf m) = mapNext (·.withRxBuf m) (engineStep t r f s) := by
  unfold engineStep
  rw [withRxBuf_phase]
  cases s.eng.phase with
  | reception => rw [charTimeout_withRxBuf]; dsimp only; split <;> rfl
  | waiting => exact validate_withRxBuf hv
  | processingResponse => exact stepProcessing_withRxBuf hv t
  | processingNoResponse => exact stepProcessing_withRxBuf hv t
  | discard => rw [frameTimeout_withRxBuf]; dsimp only; split <;> rfl
  | emission => exact emitter_withRxBuf s m r f
  | _ => rfl

theorem sameButStale_withRxBuf : SameButStale s (s.withRxBuf m) := ⟨rfl, rfl, rfl, hv⟩

end Agreeing

variable {s m}

/-- A processing step writes neither the receive buffer nor its count. -/
theorem EngineMove.rx_kept {t : Time} {r f : Bool} {u : State} (h : EngineMove s (.step t r f) u) :
    u.eng.rxBuf = s.eng.rxBuf ∧ u.eng.rxCount = s.eng.rxCount := by
  cases h with
  | requestRun _ _ _ _ _ _ _ _ _ _ _ hrun =>
    have hf := (exec_effect hrun).frame
    exact ⟨hf.rxBuf, hf.rxCount⟩
  | frameFiltered => unfold filterAddress; split <;> [exact ⟨rfl, rfl⟩; (split <;> exact ⟨rfl, rfl⟩)]
  | _ => exact ⟨rfl, rfl⟩

theorem engineStep_stale (hv : ∀ i < s.eng.rxCount, Memory.read s.eng.rxBuf i = Memory.read m i) (t : Time) (r f : Bool) :
    StaleAlike (engineStep t r f s) (engineStep t r f (s.withRxBuf m)) := by
  rw [engineStep_withRxBuf hv]
  cases hu : engineStep t r f s with
  | next u =>
    obtain ⟨hb, hc⟩ := (engineStep_moves hu).rx_kept
    exact .next (sameButStale_withRxBuf (by rw [hb, hc]; exact hv))
  | fault g => exact .fault g
  | refused g => exact .refused g

/-! ### The receiver -/

section Agreeing

variable (hv : ∀ i < s.eng.rxCount, Memory.read s.eng.rxBuf i = Memory.read m i)
include hv

theorem lineError_stale (err : Bool) : SameButStale (lineError err s) (lineError err (s.withRxBuf m)) := by
  cases err <;> exact ⟨rfl, rfl, rfl, hv⟩

/-- The byte stored makes one more cell valid, with the same value in both buffers. -/
theorem read_storeByte (d : Byte) {i : Nat} (hi : i < s.eng.rxCount + 1) :
    Memory.read (Memory.write s.eng.rxBuf s.eng.rxCount d) i = Memory.read (Memory.write m s.eng.rxCount d) i := by
  rw [Memory.read_write, Memory.read_write]
  split
  · rfl
  · rename_i hne; exact hv i (Nat.lt_of_le_of_ne (Nat.le_of_lt_succ hi) hne)

theorem absorb_stale (d : Byte) (err : Bool) (t : Time) : SameButStale (absorb d err t s) (absorb d err t (s.withRxBuf m)) := by
  obtain hc | hc := Nat.lt_or_ge s.eng.rxCount Config.bufferCap
  · rw [absorb_room hc, absorb_room (s := s.withRxBuf m) hc]
    cases err <;> exact ⟨rfl, rfl, rfl, fun _ hi => read_storeByte hv d hi⟩
  · rw [absorb_full hc, absorb_full (s := s.withRxBuf m) hc]
    cases err <;> exact ⟨rfl, rfl, rfl, hv⟩

omit hv in
/-- A new frame begins with no valid cell, so nothing is asked of the two buffers (R135). -/
theorem startFrame_stale (d : Byte) (err : Bool) (t : Time) :
    SameButStale (startFrame d err t s) (startFrame d err t (s.withRxBuf m)) :=
  absorb_stale (s := ((s.setRx s.eng.rxBuf 0).setIntegrity true).setPhase .reception)
    (fun _ hi => absurd hi (Nat.not_lt_zero _)) d err t

theorem receiveByte_stale (d : Byte) (err : Bool) (t : Time) :
    SameButStale (receiveByte d err t s) (receiveByte d err t (s.withRxBuf m)) := by
  unfold receiveByte
  rw [withRxBuf_phase]
  cases s.eng.phase with
  | init => exact lineError_stale hv err
  | idle => exact startFrame_stale d err t
  | reception =>
    rw [charTimeout_withRxBuf]
    dsimp only
    split
    · exact ⟨rfl, rfl, rfl, hv⟩
    · exact absorb_stale hv d err t
  | emission =>
    rw [withRxBuf_txPending]
    dsimp only
    split
    · exact lineError_stale hv err
    · exact startFrame_stale (s := s.setPhase .idle) d err t
  | _ => exact ⟨rfl, rfl, rfl, hv⟩

theorem rxByte_stale (d : Byte) (pe fe oe : Bool) (t : Time) :
    SameButStale (rxByte d pe fe oe t s) (rxByte d pe fe oe t (s.withRxBuf m)) := by
  cases hen : s.eng.rxEn with
  | false => rw [rxByte_disabled hen, rxByte_disabled (s := s.withRxBuf m) hen]; exact sameButStale_withRxBuf hv
  | true => rw [rxByte_enabled hen, rxByte_enabled (s := s.withRxBuf m) hen]; exact receiveByte_stale hv ..

/-! ### Any input -/

theorem hostWrites_stale (p : PortsIn) : SameButStale (hostWrites p s) (hostWrites p (s.withRxBuf m)) := by
  rw [hostWrites_eq, hostWrites_eq]
  exact ⟨rfl, rfl, rfl, hv⟩

theorem applyEvent_stale (e : Event) : StaleAlike (applyEvent e s) (applyEvent e (s.withRxBuf m)) := by
  cases e with
  | reset => exact .next ⟨rfl, rfl, rfl, fun _ _ => rfl⟩
  | rxByte d pe fe oe t => exact .next (rxByte_stale hv d pe fe oe t)
  | step t r f => exact engineStep_stale hv t r f
  | hostSetInput i v => exact .next (hostWrites_stale hv (hostPorts (.event (.hostSetInput i v))))
  | hostSetCoil i v => exact .next (hostWrites_stale hv (hostPorts (.event (.hostSetCoil i v))))
  | _ => exact .next ⟨rfl, rfl, rfl, hv⟩

theorem applyInput_stale (i : Input) : StaleAlike (applyInput i s) (applyInput i (s.withRxBuf m)) := by
  cases i with
  | event e => exact applyEvent_stale hv e
  | clock p =>
    unfold applyInput clockEdge
    dsimp only
    split
    · exact applyEvent_stale hv .reset
    · have hw := hostWrites_stale hv p
      rw [eq_withRxBuf_of_sameButStale hw]
      exact applyEvent_stale hw.valid _

end Agreeing

/-- Both states take the same input, or are both refused. -/
theorem step_stale {s t : State} (h : SameButStale s t) : StaleAlike (step s) (step t) := by
  rw [eq_withRxBuf_of_sameButStale h]
  unfold step advance
  rw [withRxBuf_params]
  split
  · exact applyInput_stale (s := afterInput s) h.valid (nextInput s)
  · exact .refused _

end Sys2Proof.Machine

namespace Sys2Proof.Proofs

open Sys2Proof.Machine Sys2Proof.Safety

/-- Settles O59: the two steps are alike, whatever the first one does. -/
theorem staleCellsAreNeverRead : Obligations.StaleCellsAreNeverRead := by
  intro s t h
  have hs := step_stale h
  generalize step s = r, step t = r' at hs ⊢
  cases hs with
  | next same => exact same
  | fault f => rfl
  | refused r => rfl

end Sys2Proof.Proofs
end

section
/-! A received frame is left alone until the exchange is over: only the start of a frame and a byte absorbed into one write the
receive buffer or its count, and neither happens after RECEPTION while the exchange lasts (R81). -/

namespace Sys2Proof.Machine

open Sys2Proof.Safety

variable {s : State}

@[simp] theorem lineError_rxBuf (err : Bool) (s : State) : (lineError err s).eng.rxBuf = s.eng.rxBuf := by cases err <;> rfl
@[simp] theorem lineError_rxCount (err : Bool) (s : State) : (lineError err s).eng.rxCount = s.eng.rxCount := by
  cases err <;> rfl
@[simp] theorem hostWrites_rxBuf (p : PortsIn) (s : State) : (hostWrites p s).eng.rxBuf = s.eng.rxBuf := by rw [hostWrites_eq]
@[simp] theorem hostWrites_rxCount (p : PortsIn) (s : State) : (hostWrites p s).eng.rxCount = s.eng.rxCount := by
  rw [hostWrites_eq]
@[simp] theorem hostWrites_txPending (p : PortsIn) (s : State) : (hostWrites p s).eng.txPending = s.eng.txPending := by
  rw [hostWrites_eq]

/-- A received byte starts a frame only in IDLE or in an EMISSION with nothing pending (R135, R139), and is absorbed into one only in
RECEPTION (R137); every other move of the engine keeps the buffer and its count. -/
theorem EngineMove.rx_kept_of_phase {e : Event} {u : State} (h : EngineMove s e u) (hidle : s.eng.phase ≠ .idle)
    (hreception : s.eng.phase ≠ .reception) (hemission : s.eng.phase = .emission → s.eng.txPending = true) :
    u.eng.rxBuf = s.eng.rxBuf ∧ u.eng.rxCount = s.eng.rxCount := by
  cases e with
  | step t r f => exact h.rx_kept
  | rxByte d pe fe oe t =>
    cases h with
    | frameStarted _ _ _ _ _ hphase =>
      obtain hi | ⟨he, hx⟩ := hphase
      · exact absurd hi hidle
      · cases (hemission he).symm.trans hx
    | byteAbsorbed _ _ _ _ _ hp => exact absurd hp hreception
    | byteDropped => exact ⟨lineError_rxBuf .., lineError_rxCount ..⟩
    | byteLost | byteLate | byteIntruded => exact ⟨rfl, rfl⟩
  | _ => cases h

/-- A step that is no reset keeps the receive buffer and its count wherever no byte can be stored; its host writes never touch
them. -/
theorem step_rx_kept {t : State} (h : step s = .next t) (hr : resets (nextInput s) = false) (hidle : s.eng.phase ≠ .idle)
    (hreception : s.eng.phase ≠ .reception) (hemission : s.eng.phase = .emission → s.eng.txPending = true) :
    t.eng.rxBuf = s.eng.rxBuf ∧ t.eng.rxCount = s.eng.rxCount := by
  obtain ⟨hr', -⟩ | ⟨-, rfl | ⟨e, hm⟩⟩ := step_cases h
  · cases hr.symm.trans hr'
  · exact ⟨hostWrites_rxBuf .., hostWrites_rxCount ..⟩
  · obtain ⟨hb, hc⟩ := hm.rx_kept_of_phase (by rwa [hostWrites_phase]) (by rwa [hostWrites_phase])
      (by rwa [hostWrites_phase, hostWrites_txPending])
    exact ⟨hb.trans (hostWrites_rxBuf ..), hc.trans (hostWrites_rxCount ..)⟩

end Sys2Proof.Machine

namespace Sys2Proof.Proofs

open Sys2Proof.Machine Sys2Proof.Safety

/-- Settles O55: in each of these phases no byte can be stored, in EMISSION because a reply is pending. -/
theorem frameIsImmutableAfterReception : Obligations.FrameIsImmutableAfterReception := by
  intro s t h hr hphase
  refine step_rx_kept h hr ?_ ?_ fun he => ?_
  · intro hi; simp [hi] at hphase
  · intro hp; simp [hp] at hphase
  · simpa [he] using hphase

end Sys2Proof.Proofs
end

section
/-! Encoding and decoding are inverse: the two decoders on a frame taken apart (R90, R93), and the bytes of what they answer. -/

namespace Sys2Proof

open Sys2Proof.Machine

/-! ### Frames of a legal length -/

/-- A frame of 4 to 256 bytes is an address, a function byte, and a payload with its two bytes of CRC (R90, R93). -/
theorem frame_parts {frame : List Byte} (h4 : 4 ≤ frame.length) (h256 : frame.length ≤ 256) :
    ∃ a f rest, frame = a :: f :: rest ∧ 2 ≤ rest.length ∧ rest.length ≤ 254 := by
  obtain _ | ⟨a, _ | ⟨f, rest⟩⟩ := frame
  · simp at h4
  · simp at h4
  · simp only [List.length_cons] at h4 h256
    exact ⟨a, f, rest, rfl, by omega, by omega⟩

theorem beforeCrc_cons_cons {a f : Byte} {rest : List Byte} (h : 2 ≤ rest.length) :
    beforeCrc (a :: f :: rest) = a :: f :: beforeCrc rest := by
  obtain ⟨n, hn⟩ : ∃ n, rest.length = n + 2 := ⟨rest.length - 2, by omega⟩
  simp [beforeCrc, hn]

theorem beforeCrc_length (frame : List Byte) : (beforeCrc frame).length = frame.length - 2 := by
  simp [beforeCrc]

section Rest
variable {a f : Byte} {rest : List Byte} (h2 : 2 ≤ rest.length) (h254 : rest.length ≤ 254)
include h2 h254

theorem decodeRequest_cons_cons :
    decodeRequest (a :: f :: rest) = .ok (decodeRequestParts a f (beforeCrc rest)) := by
  simp only [decodeRequest, if_neg (Nat.not_lt.2 h2), if_neg (Nat.not_lt.2 h254)]

theorem decodeReply_cons_cons : decodeReply (a :: f :: rest) = decodeReplyParts a f (beforeCrc rest) := by
  simp only [decodeReply, if_neg (Nat.not_lt.2 h2), if_neg (Nat.not_lt.2 h254)]

end Rest

/-- Nothing shorter than 4 or longer than 256 bytes decodes, in either direction (R93). -/
theorem length_of_decode {d : Direction} {frame : List Byte} {i : Instr} (h : decode d frame = .ok i) :
    4 ≤ frame.length ∧ frame.length ≤ 256 := by
  obtain _ | ⟨a, _ | ⟨f, rest⟩⟩ := frame
  · cases d <;> cases h
  · cases d <;> cases h
  · by_cases hs : rest.length < 2
    · cases d <;> simp [decode, decodeRequest, decodeReply, hs] at h
    · by_cases hl : 254 < rest.length
      · cases d <;> simp [decode, decodeRequest, decodeReply, hs, hl] at h
      · simp only [List.length_cons]; omega

section Encoded
variable (i : Instr) {a f : Byte} {payload : List Byte} (hb : i.bytes = a :: f :: payload) (hp : payload.length ≤ 252)
include hb hp

/-- An encoded frame is decoded from the bytes before its CRC. -/
theorem decodeRequest_encode : decodeRequest (encode i) = .ok (decodeRequestParts a f payload) := by
  rw [encode, hb, List.cons_append, List.cons_append, decodeRequest_cons_cons (by simp) (by simpa using hp),
    beforeCrc_append _ _ (crcBytes_length _)]

theorem decodeReply_encode : decodeReply (encode i) = decodeReplyParts a f payload := by
  rw [encode, hb, List.cons_append, List.cons_append, decodeReply_cons_cons (by simp) (by simpa using hp),
    beforeCrc_append _ _ (crcBytes_length _)]

end Encoded

/-! ### The parts of a frame -/

/-- A body has parsed fields exactly in the 8-byte frame, whose payload has 4 bytes (R94, R95, R109). -/
theorem decodeBody_fields_iff {p : List Byte} : (∃ x y, decodeBody p = .fields x y) ↔ p.length = 4 := by
  unfold decodeBody
  split
  · simp
  · rename_i hne
    refine ⟨fun ⟨_, _, h⟩ => (nomatch h), fun h => ?_⟩
    obtain ⟨x1, x0, y1, y0, rfl⟩ := List.length_eq_four.1 h
    exact absurd rfl (hne x1 x0 y1 y0)

theorem encodeBody_decodeBody (p : List Byte) : encodeBody (decodeBody p) = p := by
  unfold decodeBody
  split <;> simp [encodeBody]

theorem decodeBody_encodeBody {body : RequestBody} (h : body.wf = true) : decodeBody (encodeBody body) = body := by
  cases body with
  | fields x y => simp [encodeBody, decodeBody]
  | malformed p =>
    have hl : p.length ≠ 4 := by simp_all [RequestBody.wf]
    show decodeBody p = _
    unfold decodeBody
    split
    · exact absurd rfl hl
    · rfl

theorem decodeExcCode_iff {e : Byte} {code : ExcCode} : decodeExcCode e = .ok code ↔ e = excByte code := by
  unfold decodeExcCode
  split
  · subst_vars; cases code <;> decide
  · split
    · subst_vars; cases code <;> decide
    · split
      · subst_vars; cases code <;> decide
      · cases code <;> simp_all [excByte]

theorem excFunction7_getLsbD : ∀ f : BitVec 7, (excFunction7 f).getLsbD 7 = true := by decide

theorem setWidth_excFunction7 : ∀ f : BitVec 7, (excFunction7 f).setWidth 7 = f := by decide

/-- A function byte with bit 7 set is the exception form of its low 7 bits (R98). -/
theorem excFunction7_setWidth_of_getLsbD : ∀ f : Byte, f.getLsbD 7 = true → excFunction7 (f.setWidth 7) = f := by decide

/-! ### The frame of what was decoded -/

theorem decodeRequestParts_bytes (a f : Byte) (payload : List Byte) :
    (decodeRequestParts a f payload).bytes = a :: f :: payload := by
  unfold decodeRequestParts
  split
  · subst_vars; simp [Instr.bytes, encodeBody_decodeBody]
  · split
    · subst_vars; simp [Instr.bytes, encodeBody_decodeBody]
    · rfl

/-- The reply decoder's three forms, each with what it has checked (R96, R97, R98). -/
inductive ReplyParts (a f : Byte) (payload : List Byte) : Instr → Prop
  | exc (e : Byte) (code : ExcCode) (function : f.getLsbD 7 = true) (bytes : payload = [e])
      (known : decodeExcCode e = .ok code) : ReplyParts a f payload (.exc a (f.setWidth 7) code)
  | rdiRsp (n : Byte) (data : List Byte) (function : f = 0x02#8) (bytes : payload = n :: data)
      (count : n.toNat = data.length) (fits : data.length ≤ 250) : ReplyParts a f payload (.rdiRsp a data)
  | wscRsp (c1 c0 v1 v0 : Byte) (function : f = 0x05#8) (bytes : payload = [c1, c0, v1, v0])
      (legal : be16 v1 v0 = 0x0000#16 ∨ be16 v1 v0 = 0xFF00#16) : ReplyParts a f payload (.wscRsp a (be16 c1 c0) (be16 v1 v0))

theorem replyParts_of_decode {a f : Byte} {payload : List Byte} {i : Instr}
    (h : decodeReplyParts a f payload = .ok i) : ReplyParts a f payload i := by
  unfold decodeReplyParts at h
  split at h
  · rename_i hf
    split at h
    · split at h
      · rename_i e _ c hc; cases h; exact .exc e c hf rfl hc
      · cases h
    · cases h
  · split at h
    · rename_i hf
      split at h
      · split at h
        · rename_i n data hn
          simp only [Bool.and_eq_true, decide_eq_true_eq] at hn
          cases h; exact .rdiRsp n data hf rfl hn.1 hn.2
        · cases h
      · cases h
    · split at h
      · rename_i hf
        split at h
        · split at h
          · rename_i c1 c0 v1 v0 hv
            cases h; exact .wscRsp c1 c0 v1 v0 hf rfl (by simpa using hv)
          · cases h
        · cases h
      · cases h

theorem decodeReplyParts_bytes {a f : Byte} {payload : List Byte} {i : Instr}
    (h : decodeReplyParts a f payload = .ok i) : i.bytes = a :: f :: payload := by
  cases replyParts_of_decode h with
  | exc e code hf hb hk =>
    simp [Instr.bytes, hb, excFunction7_setWidth_of_getLsbD f hf, decodeExcCode_iff.1 hk]
  | rdiRsp n data hf hb hn _ => simp [Instr.bytes, hf, hb, ← hn]
  | wscRsp c1 c0 v1 v0 hf hb _ => simp [Instr.bytes, hf, hb]

/-- The bytes before the CRC are those of the instruction decoded: none is dropped (R90). -/
theorem bytes_of_decode {d : Direction} {frame : List Byte} {i : Instr} (h : decode d frame = .ok i) :
    i.bytes = beforeCrc frame := by
  obtain ⟨h4, h256⟩ := length_of_decode h
  obtain ⟨a, f, rest, rfl, h2, h254⟩ := frame_parts h4 h256
  rw [beforeCrc_cons_cons h2]
  cases d with
  | request =>
    cases (decodeRequest_cons_cons h2 h254).symm.trans h
    exact decodeRequestParts_bytes a f _
  | reply => exact decodeReplyParts_bytes ((decodeReply_cons_cons h2 h254).symm.trans h)

/-- A frame that passes the CRC comparison is the encoding of what it decodes to. -/
theorem encode_of_decode {d : Direction} {frame : List Byte} {i : Instr} (h : decode d frame = .ok i)
    (hc : crcMatches frame = true) : encode i = frame := by
  have hl : 2 ≤ frame.length := le_trans (by decide) (length_of_decode h).1
  rw [encode, bytes_of_decode h, ← eq_append_of_crcMatches hl hc]

/-! ### The instruction of an encoded frame -/

/-- A pseudo-form has the frame of the `WSC` it expands to (R111). -/
theorem encode_core (i : Instr) : encode i.core = encode i := by
  cases i <;> rfl

theorem decodeReplyParts_rdiRsp {a : Byte} {data : List Byte} (h : data.length ≤ 250) :
    decodeReplyParts a 0x02#8 (BitVec.ofNat 8 data.length :: data) = .ok (.rdiRsp a data) := by
  simp [decodeReplyParts, h, show data.length < 256 by omega]

theorem decodeReplyParts_wscRsp {a : Byte} {c v : Word} (h : v = 0x0000#16 ∨ v = 0xFF00#16) :
    decodeReplyParts a 0x05#8 [hiByte c, loByte c, hiByte v, loByte v] = .ok (.wscRsp a c v) := by
  obtain rfl | rfl := h <;> simp [decodeReplyParts]

theorem decodeReplyParts_exc (a : Byte) (f : BitVec 7) (code : ExcCode) :
    decodeReplyParts a (excFunction7 f) [excByte code] = .ok (.exc a f code) := by
  simp [decodeReplyParts, excFunction7_getLsbD, decodeExcCode_iff.2 rfl, setWidth_excFunction7]

/-- The forms that the decoder answers with, each decoded from its own frame; the pseudo-forms are not among them. -/
theorem decode_encode_of_core_eq {i : Instr} (hw : i.wf = true) (hcore : i.core = i) :
    decode i.direction (encode i) = .ok i := by
  cases i with
  | rdi a body =>
    refine (decodeRequest_encode (.rdi a body) rfl (Laws.WireForm.encodeBody_length hw)).trans ?_
    simp [decodeRequestParts, decodeBody_encodeBody hw]
  | wsc a body =>
    refine (decodeRequest_encode (.wsc a body) rfl (Laws.WireForm.encodeBody_length hw)).trans ?_
    simp [decodeRequestParts, decodeBody_encodeBody hw]
  | wscOn a c => cases hcore
  | wscOff a c => cases hcore
  | illegal a f p =>
    simp only [Instr.wf, Bool.and_eq_true, bne_iff_ne, decide_eq_true_eq] at hw
    obtain ⟨⟨h2, h5⟩, hl⟩ := hw
    refine (decodeRequest_encode (.illegal a f p) rfl hl).trans ?_
    rw [decodeRequestParts, if_neg h2, if_neg h5]
  | rdiRsp a data =>
    have hl : data.length ≤ 250 := of_decide_eq_true hw
    have hn : (BitVec.ofNat 8 data.length :: data).length ≤ 252 := by simp only [List.length_cons]; omega
    exact (decodeReply_encode (.rdiRsp a data) rfl hn).trans (decodeReplyParts_rdiRsp hl)
  | wscRsp a c v =>
    have hv : v = 0x0000#16 ∨ v = 0xFF00#16 := by simpa [Instr.wf] using hw
    exact (decodeReply_encode (.wscRsp a c v) rfl (by simp)).trans (decodeReplyParts_wscRsp hv)
  | exc a f code => exact (decodeReply_encode (.exc a f code) rfl (by simp)).trans (decodeReplyParts_exc a f code)

theorem direction_core (i : Instr) : i.core.direction = i.direction := by cases i <;> rfl

theorem core_core (i : Instr) : i.core.core = i.core := by cases i <;> rfl

theorem wf_core {i : Instr} (h : i.wf = true) : i.core.wf = true := by
  cases i with
  | wscOn a c => rfl
  | wscOff a c => rfl
  | _ => exact h

end Sys2Proof

namespace Sys2Proof.Proofs

open Sys2Proof.Machine

/-- Settles O1: an instruction has the frame of its core form, and a core form is decoded from its own frame. -/
theorem decodeUndoesEncode : Obligations.DecodeUndoesEncode := by
  intro i hw
  rw [← encode_core, ← direction_core]
  exact decode_encode_of_core_eq (wf_core hw) (core_core i)

/-- Settles O2: the bytes before the CRC are the instruction's, and a frame that passes the comparison ends in their CRC. -/
theorem encodeUndoesDecode : Obligations.EncodeUndoesDecode := fun _ _ _ => encode_of_decode

/-- Settles O3: the decoder's equation on a frame of legal length, at each function byte; the 8-byte frame has a payload of 4. -/
theorem functionByteSelectsForm : Obligations.FunctionByteSelectsForm := by
  refine ⟨fun _ => ⟨fun ⟨_, h⟩ => length_of_decode (d := .request) h, fun ⟨h4, h256⟩ => decodeRequest_of_length h4 h256⟩,
    fun a f rest h2 h254 => ?_⟩
  rw [decodeRequest_cons_cons h2 h254]
  have hbody : (∃ x y, decodeBody (beforeCrc rest) = .fields x y) ↔ rest.length = 6 := by
    rw [decodeBody_fields_iff, beforeCrc_length]; omega
  refine ⟨fun hf => ⟨_, ?_, hbody⟩, fun hf => ⟨_, ?_, hbody⟩, fun h2 h5 => ?_⟩
  · rw [hf]; rfl
  · rw [hf]; rfl
  · rw [decodeRequestParts, if_neg h2, if_neg h5]; rfl

/-- Settles O4: the decoder and the encoder run on each frame. -/
theorem specFramesDecode : Obligations.SpecFramesDecode := by
  unfold Obligations.SpecFramesDecode
  decide +kernel

end Sys2Proof.Proofs
end

section
/-! The reply forms run by being committed, and a processing step past the silence runs the request received. -/

namespace Sys2Proof.Machine

open Sys2Proof.Safety

variable {s : State}

/-- A `Step` past the silence with the flag OK runs what the received frame decodes to (R147, R177). -/
theorem step_dispatches {t : Time} {r f : Bool} {rest : List Input} {frame : List Byte} {i : Instr}
    (hok : s.params.ok = true) (hin : s.env.inputs = .event (.step t r f) :: rest)
    (hp : s.eng.phase = .processingResponse ∨ s.eng.phase = .processingNoResponse)
    (ht : s.params.t35.toNat ≤ (t - s.eng.lastTs).toNat) (hi : s.eng.integrityOk = true)
    (hf : rxFrame s = .ok frame) (hd : decodeRequest frame = .ok i) : step s = exec i (s.setInputs rest) := by
  calc step s = engineStep t r f (s.setInputs rest) := step_cons hok hin
    _ = stepProcessing t (s.setInputs rest) := engineStep_processing (s := s.setInputs rest) hp t r f
    _ = dispatch (s.setInputs rest) := stepProcessing_dispatch (frameTimeout_iff.2 ht) hi
    _ = exec i (s.setInputs rest) := dispatch_eq hf hd

theorem exec_rdiRsp_ok (a : Byte) (data : List Byte) (s : State) (h : data.length ≤ 250) :
    ∃ t, exec (.rdiRsp a data) s = .next t ∧ Succeeds (Instr.rdiRsp a data).bytes s.eng.coil s t :=
  commit_ok s (by simp only [Instr.bytes, List.length_cons, Config.bufferCap]; omega)

theorem exec_wscRsp_ok (a : Byte) (c v : Word) (s : State) :
    ∃ t, exec (.wscRsp a c v) s = .next t ∧ Succeeds (Instr.wscRsp a c v).bytes s.eng.coil s t :=
  commit_ok (reply := (Instr.wscRsp a c v).bytes) s (by simp [Instr.bytes, Config.bufferCap])

/-- Only the low 7 bits of a function byte reach an exception reply (R98, R194). -/
theorem excFunction_excFunction7_setWidth (f : Byte) : excFunction (excFunction7 (f.setWidth 7)) = excFunction f := by
  rw [excFunction7_eq, excFunction7_setWidth]

theorem exec_exc_setWidth (a f : Byte) (code : ExcCode) (s : State) :
    exec (.exc a (f.setWidth 7) code) s = takeException a f code s := by
  show takeException a (excFunction7 (f.setWidth 7)) code s = _
  rw [takeException, takeException, excFunction_excFunction7_setWidth]

end Sys2Proof.Machine

namespace Sys2Proof.Proofs

open Sys2Proof.Machine Sys2Proof.Safety

/-- Settles O29: two of the forms are commits that fit the buffer, the third takes an exception. -/
theorem replyFormsAreCommitted : Obligations.ReplyFormsAreCommitted := by
  refine fun s a => ⟨fun data h => exec_rdiRsp_ok a data s h, fun c1 c0 v1 v0 => ?_, fun f code => ?_⟩
  · simpa [Instr.bytes] using exec_wscRsp_ok a (be16 c1 c0) (be16 v1 v0) s
  · rw [exec_exc_setWidth]
    exact takeException_ok a f code s

/-- Settles O22: it is `step_dispatches`, with the next input taken. -/
theorem stepRunsDecodedRequest : Obligations.StepRunsDecodedRequest :=
  fun _ _ _ _ _ _ _ hok hin hp ht hi hf hd => step_dispatches hok hin hp ht hi hf hd

end Sys2Proof.Proofs
end

section
/-! The emission of a committed reply from the turn of the line to the return to IDLE, and with it a whole Write Single Coil
exchange (R190, R212 to R215). -/

namespace Sys2Proof.Machine

open Sys2Proof.Safety

variable {s : State}

/-! ### The steps of an emission -/

/-- The line turned around, with the transmit buffer `m` that ends in the two bytes of CRC (R212). -/
def lineTurned (m : List Host.Cell) (s : State) : State :=
  (((s.setTx m (s.eng.txLen + 2)).setLine true false).setTxIdx 0).setEmit .send

/-- The byte `v` handed over and the index moved on, to E_FLUSH behind the last byte (R213, R214). -/
def byteSent (v : Byte) (s : State) : State :=
  ((send v s).setTxIdx (s.eng.txIdx + 1)).setEmit (if s.eng.txIdx + 1 = s.eng.txLen then .flush else s.eng.emit)

theorem step_emission {t : Time} {r f : Bool} {rest : List Input} (hok : s.params.ok = true)
    (hin : s.env.inputs = .event (.step t r f) :: rest) (hp : s.eng.phase = .emission) :
    step s = emitter r f (s.setInputs rest) :=
  (step_cons hok hin).trans (engineStep_emission (s := s.setInputs rest) hp t r f)

theorem emitArm_pending {reply : List Byte} (hp : s.eng.txPending = true) (hr : txFrame s = .ok reply)
    (hl : reply.length ≤ 254) :
    ∃ m, writeBytes .tx s.eng.txBuf s.eng.txLen (crcBytes reply) = .ok m ∧ emitArm s = .next (lineTurned m s) := by
  obtain ⟨hn, -⟩ := readCells_spec hr
  obtain ⟨m, hm⟩ := writeBytes_ok (sp := .tx) (buf := s.eng.txBuf) (i := s.eng.txLen) (vs := crcBytes reply)
    (by simp only [crcBytes_length, Config.bufferCap]; omega)
  refine ⟨m, hm, ?_⟩
  simp only [emitArm, if_pos hp, hr, hm]
  rfl

theorem emitSend_ready {v : Byte} (hv : readCell .tx s.eng.txBuf s.eng.txLen s.eng.txIdx = .ok v) :
    emitSend true s = .next (byteSent v s) := by
  unfold emitSend byteSent
  rw [hv]
  by_cases hlast : s.eng.txIdx + 1 = s.eng.txLen
  · simp only [if_pos hlast, if_true]
  · simp only [if_neg hlast, if_true]; rfl

/-- The end of a transmission, register by register (R215). -/
theorem releaseLine_eq (s : State) : releaseLine s = { s with eng := { s.eng with
    phase := .idle, de := false, rxEn := true, txPending := false, txLen := 0, txIdx := 0, emit := .arm } } := by
  unfold releaseLine returnToIdle State.setPhase State.setEmit State.setTxIdx State.setTx State.setTxPending State.setLine
  rfl

theorem readCells_cons {sp : Space} {buf : List Host.Cell} {len i n : Nat} {v : Byte} {vs : List Byte}
    (h : readCells sp buf len i (n + 1) = .ok (v :: vs)) :
    readCell sp buf len i = .ok v ∧ readCells sp buf len (i + 1) n = .ok vs := by
  simp only [readCells] at h
  split at h
  · cases h
  · rename_i w hw
    split at h
    · cases h
    · rename_i ws hws
      cases h; exact ⟨hw, hws⟩

/-! ### The emission -/

/-- The line is driven and the bytes `left` at the index are still to be sent: E_SEND while there are any, else E_FLUSH. -/
structure Sending (left : List Byte) (s : State) : Prop where
  phase : s.eng.phase = .emission
  emit : s.eng.emit = if left = [] then .flush else .send
  de : s.eng.de = true
  length : s.eng.txIdx + left.length = s.eng.txLen
  stored : readCells .tx s.eng.txBuf s.eng.txLen s.eng.txIdx left.length = .ok left

/-- From `s` on, the bytes `frame` were sent while driving the line, and the exchange is over: IDLE, in receive mode, with nothing
pending. Beside the contents of the transmit buffer nothing else has changed, and the inputs to come are `rest`. -/
structure EmitsWhole (frame : List Byte) (rest : List Input) (s t : State) : Prop where
  sent : t.env.sent = s.env.sent ++ driven frame
  inputs : t.env.inputs = rest
  params : t.params = s.params
  eng : t.eng = { s.eng with
    phase := .idle, de := false, rxEn := true, txPending := false, txLen := 0, txIdx := 0, emit := .arm,
    txBuf := t.eng.txBuf }

/-- The state with its next input taken is sending the same bytes. -/
theorem Sending.setInputs {left : List Byte} (h : Sending left s) (rest : List Input) : Sending left (s.setInputs rest) :=
  { h with }

theorem sending_lineTurned {m : List Host.Cell} {reply : List Byte} (hp : s.eng.phase = .emission)
    (hr : txFrame s = .ok reply) (hm : writeBytes .tx s.eng.txBuf s.eng.txLen (crcBytes reply) = .ok m) :
    Sending (reply ++ crcBytes reply) (lineTurned m s) := by
  have hcrc := txFrame_of_crc_written hr hm
  obtain ⟨hl, -⟩ := readCells_spec hcrc
  exact {
    phase := hp
    emit := by simp [lineTurned, crcBytes]
    de := rfl
    length := by rw [hl]; simp [lineTurned]
    stored := by rw [hl]; exact hcrc }

theorem Sending.readCell {v : Byte} {left : List Byte} (h : Sending (v :: left) s) :
    readCell .tx s.eng.txBuf s.eng.txLen s.eng.txIdx = .ok v := (readCells_cons h.stored).1

/-- Handing over the first byte leaves the others. -/
theorem Sending.byteSent {v : Byte} {left : List Byte} (h : Sending (v :: left) s) : Sending left (byteSent v s) := by
  have hlen : s.eng.txIdx + (left.length + 1) = s.eng.txLen := h.length
  have hlast : s.eng.txIdx + 1 = s.eng.txLen ↔ left = [] := by
    rw [← List.length_eq_zero_iff]; omega
  exact {
    phase := h.phase
    emit := by
      show (if s.eng.txIdx + 1 = s.eng.txLen then Emit.flush else s.eng.emit) = _
      rw [h.emit, if_neg (List.cons_ne_nil v left), if_congr hlast rfl rfl]
    de := h.de
    length := by show s.eng.txIdx + 1 + left.length = s.eng.txLen; omega
    stored := (readCells_cons h.stored).2 }

theorem emitsWhole_releaseLine (rest : List Input) (s : State) :
    EmitsWhole [] rest s (releaseLine (s.setInputs rest)) := by
  rw [releaseLine_eq]
  exact ⟨(List.append_nil _).symm, rfl, rfl, rfl⟩

/-- The rest of a frame is sent byte by byte, and the last step releases the line: an induction on the bytes left. -/
theorem Sending.run {left : List Byte} {times : List Time} {rest : List Input} (h : Sending left s)
    (hok : s.params.ok = true) (ht : times.length = left.length + 1) (hin : s.env.inputs = readySteps times ++ rest) :
    ∃ u, core.run (left.length + 1) s = .next u ∧ EmitsWhole left rest s u := by
  induction left generalizing s times with
  | nil =>
    obtain ⟨t, rfl⟩ := List.length_eq_one_iff.1 ht
    have hstep : step s = .next (releaseLine (s.setInputs rest)) :=
      (step_emission hok hin h.phase).trans (emitter_flush (h.setInputs rest).emit true true)
    exact ⟨_, run_succ hstep, emitsWhole_releaseLine rest s⟩
  | cons v left ih =>
    obtain ⟨t, times, rfl⟩ := List.exists_cons_of_length_eq_add_one ht
    have h' := h.setInputs (readySteps times ++ rest)
    have hstep : step s = .next (Machine.byteSent v (s.setInputs (readySteps times ++ rest))) :=
      (step_emission hok hin h.phase).trans ((emitter_send h'.emit true true).trans (emitSend_ready h'.readCell))
    obtain ⟨u, hrun, hu⟩ := ih h'.byteSent hok (Nat.succ.inj ht) rfl
    refine ⟨u, (run_succ hstep).trans hrun, ?_, hu.inputs, hu.params, hu.eng⟩
    rw [hu.sent]
    simp [Machine.byteSent, send, driven, h.de]

/-- A pending reply is sent whole, with its CRC, in two steps more than its bytes and their CRC. -/
theorem run_emission {reply : List Byte} {times : List Time} {rest : List Input} (hok : s.params.ok = true)
    (hp : s.eng.phase = .emission) (he : s.eng.emit = .arm) (hx : s.eng.txPending = true) (hr : txFrame s = .ok reply)
    (hl : reply.length ≤ 254) (ht : times.length = reply.length + 4) (hin : s.env.inputs = readySteps times ++ rest) :
    ∃ u, core.run (reply.length + 4) s = .next u ∧ EmitsWhole (reply ++ crcBytes reply) rest s u := by
  obtain ⟨t, times, rfl⟩ := List.exists_cons_of_length_eq_add_one ht
  obtain ⟨m, hm, harm⟩ := emitArm_pending (s := s.setInputs (readySteps times ++ rest)) hx hr hl
  have hstep : step s = .next (lineTurned m (s.setInputs (readySteps times ++ rest))) :=
    (step_emission hok hin hp).trans ((emitter_arm (s := s.setInputs _) he true true).trans harm)
  have hlen : (reply ++ crcBytes reply).length = reply.length + 2 := by simp
  have hsend := sending_lineTurned (s := s.setInputs (readySteps times ++ rest)) hp hr hm
  obtain ⟨u, hrun, hu⟩ := hsend.run (times := times) hok (by rw [hlen]; exact Nat.succ.inj ht) rfl
  rw [hlen] at hrun
  exact ⟨u, (run_succ hstep).trans hrun, hu.sent, hu.inputs, hu.params, hu.eng⟩

/-! ### A Write Single Coil -/

theorem writeSingleCoil_legal {addr value : Word} (a : Byte) (hv : value = 0x0000#16 ∨ value = 0xFF00#16)
    (hc : addr.toNat < s.params.nCoils) : writeSingleCoil a addr value s =
      commit (writeCoilReply a addr value) (s.setCoil (Table.set s.eng.coil addr.toNat (value == 0xFF00#16))) := by
  obtain ⟨h0, h1, -⟩ | ⟨-, h, -⟩ | ⟨-, -, h⟩ := writeSingleCoil_cases a addr value s
  · exact absurd hv (not_or.2 ⟨h0, h1⟩)
  · exact absurd hc (Nat.not_lt.2 h)
  · exact h

/-- The reply committed to a unicast request is what the transmit buffer holds (R196). -/
theorem txFrame_of_commitsReply {reply : List Byte} {t : State} (hp : s.eng.phase = .processingResponse)
    (h : CommitsReply reply s t) : t.eng.txPending = true ∧ txFrame t = .ok reply := by
  rw [CommitsReply, if_pos hp] at h
  obtain ⟨hx, hl, hr⟩ := h
  refine ⟨hx, readCells_of_getElem? hl.symm fun j hj => ⟨by omega, ?_⟩⟩
  rw [Nat.zero_add, hr, List.getElem?_eq_getElem (hl ▸ hj)]
  rfl

end Sys2Proof.Machine

namespace Sys2Proof.Proofs

open Sys2Proof.Machine Sys2Proof.Safety

/-- Settles O37: the dispatch writes the coil and commits the request's bytes before its CRC, and the emission adds the CRC, with
which they are the request again. -/
theorem writeCoilExchangeEchoesRequest : Obligations.WriteCoilExchangeEchoesRequest := by
  intro s frame a addr value t times rest hok hw hp hi he hf hcrc hd hv hc ht hn hin
  have hframe : encode (.wsc a (.fields addr value)) = frame := encode_of_decode (d := .request) hd hcrc
  obtain ⟨w, hrun, hs⟩ := commit_ok (reply := writeCoilReply a addr value)
    ((s.setInputs (readySteps times ++ rest)).setCoil (Table.set s.eng.coil addr.toNat (value == 0xFF00#16)))
    (by simp [writeCoilReply, Config.bufferCap])
  have hstep : step s = .next w := by
    rw [step_dispatches hok hin (.inl hp) ht hi hf hd, ← hrun]
    exact writeSingleCoil_legal (s := s.setInputs _) a hv hc
  obtain ⟨hx, hreply⟩ := txFrame_of_commitsReply hp hs.reply
  obtain ⟨u, hrun', hu⟩ := run_emission (s := w) (times := times) (rest := rest) (hs.frame.params ▸ hok) hs.frame.phase
    (hs.frame.emit.trans he) hx hreply (by simp [writeCoilReply]) hn (by rw [hs.frame.env]; rfl)
  have hcoil : u.eng.coil = Table.set s.eng.coil addr.toNat (value == 0xFF00#16) := by rw [hu.eng]; exact hs.coil
  refine ⟨u, (run_succ hstep).trans hrun', ?_, by rw [hu.eng], by rw [hu.eng], fun j => ?_⟩
  · rw [hu.sent, hs.frame.env, ← hframe]; rfl
  · obtain ⟨hl, -⟩ := Table.wf_iff.1 hw
    rw [hcoil, Table.get_set (by omega)]
    rfl

end Sys2Proof.Proofs
end

section
/-! The checksum one byte at a time, in its two forms, and the residue of a sequence with its own checksum (R121, R125, R127). -/

namespace Sys2Proof.Machine

/-! ### The bit-serial form: the reflected CRC is linear, and zero bits are shifted out without an effect -/

theorem crcShift_xor (c d : Word) : crcShift (c ^^^ d) = crcShift c ^^^ crcShift d := by
  simp only [crcShift, BitVec.getLsbD_xor, BitVec.ushiftRight_xor_distrib]
  cases c.getLsbD 0 <;> cases d.getLsbD 0
  · rfl
  · exact BitVec.xor_assoc _ _ _
  · show c >>> 1 ^^^ d >>> 1 ^^^ 0xA001#16 = c >>> 1 ^^^ 0xA001#16 ^^^ d >>> 1
    ac_rfl
  · calc c >>> 1 ^^^ d >>> 1
      _ = c >>> 1 ^^^ d >>> 1 ^^^ (0xA001#16 ^^^ 0xA001#16) := by rw [BitVec.xor_self, BitVec.xor_zero]
      _ = c >>> 1 ^^^ 0xA001#16 ^^^ (d >>> 1 ^^^ 0xA001#16) := by ac_rfl

theorem crcShifts_xor (n : Nat) (c d : Word) : crcShifts n (c ^^^ d) = crcShifts n c ^^^ crcShifts n d := by
  induction n generalizing c d with
  | zero => rfl
  | succ n ih => rw [crcShifts, crcShift_xor, ih, crcShifts, crcShifts]

theorem crcShift_of_even {c : Word} (h : 2 ∣ c.toNat) : crcShift c = c >>> 1 := by
  have hbit : c.getLsbD 0 = false := by rw [BitVec.getLsbD, Nat.testBit_zero, Nat.mod_eq_zero_of_dvd h]; rfl
  rw [crcShift, hbit]
  rfl

theorem crcShifts_of_dvd {n : Nat} {c : Word} (h : 2 ^ n ∣ c.toNat) : crcShifts n c = c >>> n := by
  induction n generalizing c with
  | zero => exact (BitVec.ushiftRight_zero c).symm
  | succ n ih =>
    obtain ⟨k, hk⟩ := h
    have heven : c.toNat = 2 * (2 ^ n * k) := by rw [hk, Nat.pow_succ', Nat.mul_assoc]
    have hrest : (c >>> 1).toNat = 2 ^ n * k := by
      rw [BitVec.toNat_ushiftRight, Nat.shiftRight_one, heven, Nat.mul_div_cancel_left _ Nat.two_pos]
    rw [crcShifts, crcShift_of_even ⟨_, heven⟩, ih ⟨k, hrest⟩, ← BitVec.shiftRight_add, Nat.add_comm]

/-! ### One byte in the two forms -/

theorem be16_xor (h l h' l' : Byte) : be16 h l ^^^ be16 h' l' = be16 (h ^^^ h') (l ^^^ l') := BitVec.xor_append

theorem be16_zero_left (l : Byte) : be16 0#8 l = l.setWidth 16 := by
  apply BitVec.eq_of_toNat_eq
  have hl : l.toNat < 2 ^ 16 := l.isLt.trans (by decide)
  rw [be16_toNat, BitVec.toNat_setWidth, Nat.mod_eq_of_lt hl]
  exact Nat.zero_add _

theorem crcShifts_be16_zero_right (h : Byte) : crcShifts 8 (be16 h 0#8) = be16 0#8 h := by
  have htop : (be16 h 0#8).toNat = h.toNat * 256 := by simp [be16_toNat]
  rw [crcShifts_of_dvd ⟨h.toNat, by omega⟩]
  apply BitVec.eq_of_toNat_eq
  rw [BitVec.toNat_ushiftRight, htop, be16_toNat, Nat.shiftRight_eq_div_pow]
  simp

theorem crcTable_eq_be16 (i : Byte) : crcTable i = be16 (tableLow i) (tableHigh i) := (be16_hiByte_loByte _).symm

/-- The checksum that the two accumulators stand for: the high accumulator is on top (R121). -/
def CrcAcc.word (acc : CrcAcc) : Word := be16 acc.hi acc.lo

theorem crc16_eq_word (bytes : List Byte) : crc16 bytes = (crcAcc bytes).word := rfl

/-- The byte and the low accumulator go through the table, the high accumulator comes down by eight zero bits. -/
theorem crcSerialStep_word (acc : CrcAcc) (b : Byte) : crcSerialStep acc.word b = (crcStep acc b).word := by
  obtain ⟨l, h⟩ := acc
  calc crcShifts 8 (be16 h l ^^^ b.setWidth 16)
    _ = crcShifts 8 (be16 h 0#8 ^^^ be16 0#8 (l ^^^ b)) := by rw [← be16_zero_left, be16_xor, be16_xor]; simp
    _ = be16 0#8 h ^^^ crcTable (l ^^^ b) := by
      rw [crcShifts_xor, crcShifts_be16_zero_right, be16_zero_left (l ^^^ b), crcTable]
    _ = be16 (tableLow (l ^^^ b)) (h ^^^ tableHigh (l ^^^ b)) := by rw [crcTable_eq_be16, be16_xor, BitVec.zero_xor]

/-! ### The accumulators -/

theorem hiByte_crc16 (bytes : List Byte) : hiByte (crc16 bytes) = (crcAcc bytes).hi := hiByte_be16 _ _

theorem loByte_crc16 (bytes : List Byte) : loByte (crc16 bytes) = (crcAcc bytes).lo := loByte_be16 _ _

@[simp] theorem tableHigh_zero : tableHigh 0#8 = 0#8 := by decide

@[simp] theorem tableLow_zero : tableLow 0#8 = 0#8 := by decide

/-- A byte equal to the low accumulator shifts the high one down and a zero in. -/
theorem crcStep_lo (l h : Byte) : crcStep ⟨l, h⟩ l = ⟨h, 0#8⟩ := by
  simp [crcStep]

/-- The CRC bytes, low byte first, empty both accumulators (R125). -/
theorem crcAcc_append_crcBytes (bytes : List Byte) : crcAcc (bytes ++ crcBytes bytes) = ⟨0#8, 0#8⟩ := by
  rw [crcAcc_append, crcBytes, loByte_crc16, hiByte_crc16]
  obtain ⟨l, h⟩ := crcAcc bytes
  calc crcStep (crcStep ⟨l, h⟩ l) h
    _ = crcStep ⟨h, 0#8⟩ h := by rw [crcStep_lo]
    _ = ⟨0#8, 0#8⟩ := crcStep_lo h 0#8

end Sys2Proof.Machine

namespace Sys2Proof.Proofs

open Sys2Proof.Machine

/-- Settles O6: the word of the accumulators is a homomorphism of the two folds, by `crcSerialStep_word`, and the seeds agree. -/
theorem tableCrcIsBitSerialCrc : Obligations.TableCrcIsBitSerialCrc := by
  intro bytes
  have hfold := List.foldl_hom CrcAcc.word (l := bytes) (init := ⟨0xFF#8, 0xFF#8⟩) crcSerialStep_word
  exact hfold.symm

/-- Settles O7: the residue is `crcAcc_append_crcBytes`, the comparison `crcMatches_append_crcBytes`. -/
theorem crcResidueIsZero : Obligations.CrcResidueIsZero := by
  intro bytes
  refine ⟨?_, crcMatches_append_crcBytes bytes⟩
  show crc16 (bytes ++ crcBytes bytes) = 0
  rw [crc16_eq_word, crcAcc_append_crcBytes]
  rfl

/-- Settles O5: one more byte is one `crcStep` of the accumulators, which are the two bytes of the checksum. -/
theorem crcUpdatesByTwoTables : Obligations.CrcUpdatesByTwoTables := by
  refine ⟨rfl, fun bytes b => ?_⟩
  have hstep : crcAcc (bytes ++ [b]) = crcStep (crcAcc bytes) b := crcAcc_append bytes [b]
  simp only [hiByte_crc16, loByte_crc16, hstep]
  exact ⟨rfl, rfl⟩

end Sys2Proof.Proofs
end

section
/-! The receiver byte by byte: what a received byte does to the whole state, phase by phase, and what the line errors add to it
(R133 to R141). -/

namespace Sys2Proof.Machine

open Sys2Proof.Safety

variable {s : State}

/-- Until the inter-character silence has elapsed, there is no timeout (R132). -/
theorem charTimeout_eq_false_of_lt {t : Time} (h : (t - s.eng.lastTs).toNat < s.params.t15.toNat) :
    charTimeout t s = false :=
  Bool.eq_false_iff.2 fun hc => Nat.not_le.2 h (charTimeout_iff.1 hc)

/-! ### The whole state after a byte -/

theorem lineError_eq (err : Bool) (s : State) :
    lineError err s = { s with eng := { s.eng with integrityOk := s.eng.integrityOk && !err } } := by
  cases err with
  | false => simp [lineError]
  | true => simp [lineError, State.setIntegrity]

theorem absorb_room_eq (h : s.eng.rxCount < Config.bufferCap) (d : Byte) (err : Bool) (t : Time) :
    absorb d err t s = { s with eng := { s.eng with
      rxCount := s.eng.rxCount + 1, rxBuf := Memory.write s.eng.rxBuf s.eng.rxCount d, lastTs := t,
      integrityOk := s.eng.integrityOk && !err } } := by
  rw [absorb_room h, lineError_eq]; rfl

/-- The overrun has cleared the flag already, so a line error adds nothing. -/
theorem absorb_full_eq (h : Config.bufferCap ≤ s.eng.rxCount) (d : Byte) (err : Bool) (t : Time) :
    absorb d err t s = { s with eng := { s.eng with
      lastTs := t, integrityOk := false, cnt := s.eng.cnt.inc .overrun } } := by
  rw [absorb_full h, lineError_eq]; rfl

/-! ### Line errors -/

theorem lineError_true (s : State) : lineError true s = (lineError false s).setIntegrity false := rfl

theorem absorb_lineError (d : Byte) (t : Time) (s : State) :
    absorb d true t s = (absorb d false t s).setIntegrity false := by
  obtain h | h := Nat.lt_or_ge s.eng.rxCount Config.bufferCap
  · rw [absorb_room h, absorb_room h]; rfl
  · rw [absorb_full h, absorb_full h]; rfl

theorem startFrame_lineError (d : Byte) (t : Time) (s : State) :
    startFrame d true t s = (startFrame d false t s).setIntegrity false := absorb_lineError d t _

/-- A byte that intrudes has cleared the flag, with a line error or without. -/
theorem intrude_setIntegrity (t : Time) (s : State) : (intrude t s).setIntegrity false = intrude t s := rfl

/-- R141 in every phase: a line error adds one write of the flag to what the byte does without it. -/
theorem receiveByte_lineError (d : Byte) (t : Time) (s : State) :
    receiveByte d true t s = (receiveByte d false t s).setIntegrity false := by
  unfold receiveByte
  cases s.eng.phase with
  | init => exact lineError_true s
  | idle => exact startFrame_lineError d t s
  | reception => dsimp only; split <;> [exact (intrude_setIntegrity t _).symm; exact absorb_lineError d t s]
  | emission => dsimp only; split <;> [exact lineError_true s; exact startFrame_lineError d t _]
  | waiting | processingResponse | processingNoResponse | discard => exact (intrude_setIntegrity t s).symm

/-! ### The event -/

theorem applyEvent_rxByte_enabled (h : s.eng.rxEn = true) (d : Byte) (perr ferr oerr : Bool) (t : Time) :
    applyEvent (.rxByte d perr ferr oerr t) s = .next (receiveByte d (perr || ferr || oerr) t s) :=
  congrArg _ (rxByte_enabled h d perr ferr oerr t)

end Sys2Proof.Machine

namespace Sys2Proof.Proofs

open Sys2Proof.Machine Sys2Proof.Safety

/-- Settles O9: the byte starts a frame, which `startFrame_eq` writes out. -/
theorem byteInIdleStartsFrame : Obligations.ByteInIdleStartsFrame := by
  intro s d perr ferr oerr t hen hphase
  rw [applyEvent_rxByte_enabled hen, receiveByte_idle hphase, startFrame_eq]
  exact ⟨_, rfl, fun i => Memory.read_write s.eng.rxBuf 0 d i, rfl⟩

/-- Settles O10: before the silence the byte is absorbed, with room in the buffer or without. -/
theorem receptionAbsorbsByte : Obligations.ReceptionAbsorbsByte := by
  intro s d perr ferr oerr t hen hphase hearly
  have habsorb : receiveByte d (perr || ferr || oerr) t s = absorb d (perr || ferr || oerr) t s := by
    rw [receiveByte_reception hphase, charTimeout_eq_false_of_lt hearly]; rfl
  refine ⟨_, applyEvent_rxByte_enabled hen d perr ferr oerr t, fun hroom => ?_, fun hfull => ?_⟩
  · rw [habsorb, absorb_room_eq hroom]
    exact ⟨fun i => Memory.read_write s.eng.rxBuf s.eng.rxCount d i, rfl⟩
  · rw [habsorb, absorb_full_eq hfull]
    exact ⟨inc_countsOne .overrun s, rfl⟩

/-- Settles O13: any of the three errors is the one error of `receiveByte_lineError`. -/
theorem lineErrorClearsIntegrity : Obligations.LineErrorClearsIntegrity := by
  intro s d perr ferr oerr t hen herr
  have hany : (perr || ferr || oerr) = true := by simpa [or_assoc] using herr
  refine ⟨_, applyEvent_rxByte_enabled hen d false false false t, ?_⟩
  rw [applyEvent_rxByte_enabled hen, hany, receiveByte_lineError]; rfl

/-- Settles O8: it is `rxByte_disabled`. -/
theorem maskedByteIsLost : Obligations.MaskedByteIsLost := fun _ d perr ferr oerr t hdis =>
  congrArg _ (rxByte_disabled hdis d perr ferr oerr t)

/-- Settles O11: past the silence in RECEPTION, and always in the other four phases, the byte intrudes. -/
theorem intrudingByteMarksFrame : Obligations.IntrudingByteMarksFrame := by
  intro s d perr ferr oerr t hen
  rw [applyEvent_rxByte_enabled hen]
  refine ⟨fun hphase hlate => ?_, fun hphase => ?_⟩
  · rw [receiveByte_reception hphase, if_pos (charTimeout_iff.2 hlate)]; rfl
  · rw [receiveByte_intrudes hphase]; rfl

/-- Settles O12: either the byte is nothing but its line error, or it starts a frame, in EMISSION as in IDLE. -/
theorem byteOutsideTheFrame : Obligations.ByteOutsideTheFrame := by
  intro s d perr ferr oerr t hen
  refine ⟨fun hdropped => ?_, fun hphase hnothing => ?_⟩
  · have hline : receiveByte d (perr || ferr || oerr) t s = lineError (perr || ferr || oerr) s := by
      obtain hinit | ⟨hemission, hpending⟩ := hdropped
      · exact receiveByte_init hinit d _ t
      · exact receiveByte_pending hemission hpending d _ t
    rw [applyEvent_rxByte_enabled hen, hline, lineError_eq]
  · calc applyEvent (.rxByte d perr ferr oerr t) s
      _ = .next (receiveByte d (perr || ferr || oerr) t s) := applyEvent_rxByte_enabled hen d perr ferr oerr t
      _ = .next (startFrame d (perr || ferr || oerr) t (s.setPhase .idle)) := by
        rw [receiveByte_emission hphase hnothing]
      _ = .next (receiveByte d (perr || ferr || oerr) t (s.setPhase .idle)) := by
        rw [receiveByte_idle (s := s.setPhase .idle) rfl]
      _ = applyEvent (.rxByte d perr ferr oerr t) (s.setPhase .idle) :=
        (applyEvent_rxByte_enabled (s := s.setPhase .idle) hen d perr ferr oerr t).symm

end Sys2Proof.Proofs
end

section
/-! The silences: the elapsed time against the true interval (R131), and what a `Step` does in the phases that wait for a silence
or for a byte (R143 to R148, R176). -/

namespace Sys2Proof.Machine

open Sys2Proof.Safety

variable {s : State}

/-- The wrap of the time input cancels out of a difference (R131). -/
theorem elapsed_toNat {start : Nat} (h : s.eng.lastTs = BitVec.ofNat 32 start) (interval : Nat) :
    (elapsed (BitVec.ofNat 32 (start + interval)) s).toNat = interval % 2 ^ 32 := by
  rw [elapsed, h, BitVec.ofNat_add, add_sub_cancel_left, BitVec.toNat_ofNat]

/-- Until the inter-frame silence has elapsed, there is no timeout (R132). -/
theorem frameTimeout_eq_false_of_lt {t : Time} (h : (t - s.eng.lastTs).toNat < s.params.t35.toNat) :
    frameTimeout t s = false :=
  Bool.eq_false_iff.2 fun hc => Nat.not_le.2 h (frameTimeout_iff.1 hc)

theorem rejectFrame_countsOne (s : State) : CountsOne .busErr s (rejectFrame s) := inc_countsOne .busErr s

/-- Only a reset or a received byte leads out of IDLE: a host write does not move the phase, and a `Step` has no effect there. -/
theorem leaves_idle_by_byte_or_reset {e : Event} {u : State} (hidle : s.eng.phase = .idle) (h : applyEvent e s = .next u)
    (hleft : u.eng.phase ≠ .idle) : e = .reset ∨ ∃ d perr ferr oerr t, e = .rxByte d perr ferr oerr t := by
  obtain ⟨rfl, -⟩ | rfl | hmove := applyEvent_cases h
  · exact .inl rfl
  · exact absurd hidle (by rwa [hostWrites_phase] at hleft)
  · cases e with
    | rxByte d perr ferr oerr t => exact .inr ⟨d, perr, ferr, oerr, t, rfl⟩
    | step t r f => cases h.symm.trans (engineStep_idle hidle t r f); exact absurd hidle hleft
    | _ => cases hmove

end Sys2Proof.Machine

namespace Sys2Proof.Proofs

open Sys2Proof.Machine Sys2Proof.Safety

/-- Settles O14: the elapsed time is the interval modulo `2^32`. -/
theorem elapsedIsTrueInterval : Obligations.ElapsedIsTrueInterval := by
  intro s start interval hstart
  rw [elapsed_toNat hstart]
  exact ⟨Nat.mod_eq_of_lt, Nat.mod_le interval _⟩

/-- Settles O15: the two arms of the processing step, and `leaves_idle_by_byte_or_reset`. -/
theorem stepInIdleAndReception : Obligations.StepInIdleAndReception := by
  refine fun s t r f => ⟨fun hidle => ⟨engineStep_idle hidle t r f, fun e u => leaves_idle_by_byte_or_reset hidle⟩,
    fun hreception => ?_⟩
  exact (engineStep_reception hreception t r f).trans (congrArg _ (if_congr charTimeout_iff rfl rfl))

/-- Settles O16: the two arms of the processing step. -/
theorem initAndDiscardSteps : Obligations.InitAndDiscardSteps := by
  refine fun s t r f => ⟨fun hinit => engineStep_init hinit t r f, fun hdiscard => ?_⟩
  exact (engineStep_discard hdiscard t r f).trans (congrArg _ (if_congr frameTimeout_iff rfl rfl))

/-- Settles O20: the three branches of the processing step in a PROCESSING phase. -/
theorem processingWaitsForSilence : Obligations.ProcessingWaitsForSilence := by
  intro s t r f hphase
  have hstep : applyEvent (.step t r f) s = stepProcessing t s := engineStep_processing hphase t r f
  rw [hstep]
  refine ⟨fun hearly => ?_, fun hsilence hbad => ?_, fun hsilence hgood frame i hframe hdecoded => ?_⟩
  · exact stepProcessing_early (frameTimeout_eq_false_of_lt hearly)
  · exact ⟨_, stepProcessing_abandon (frameTimeout_iff.2 hsilence) hbad, rejectFrame_countsOne s, rfl⟩
  · rw [stepProcessing_dispatch (frameTimeout_iff.2 hsilence) hgood, dispatch_eq hframe hdecoded]

end Sys2Proof.Proofs
end

section
/-! The validator: its comparison in numbers (R163), the three outcomes of the address filter (R165 to R167), and the way of an
unanswered frame back to IDLE: a foreign one over DISCARD, a broadcast over its dispatch. With it, that no reply goes to the
broadcast address. -/

namespace Sys2Proof.Machine

open Sys2Proof.Safety

variable {s : State}

/-! ### The comparison and the filter -/

/-- The comparison of the received CRC, low byte first on the wire, with the checksum of the bytes before it (R67, R163). -/
theorem crcMatches_iff_toNat (frame : List Byte) : crcMatches frame = true ↔
    (crc16 (frame.take (frame.length - 2))).toNat =
      (frame.getD (frame.length - 2) 0).toNat + 256 * (frame.getD (frame.length - 1) 0).toNat := by
  rw [crcMatches, beq_iff_eq, eq_comm, ← BitVec.toNat_inj, receivedCrc, be16_toNat, beforeCrc, Nat.add_comm, Nat.mul_comm]

/-- The filter moves the phase and a counter, and nothing else. -/
theorem filterAddress_frame (a : Byte) (s : State) : filterAddress a s = { s with eng := { s.eng with
    phase := (filterAddress a s).eng.phase, cnt := (filterAddress a s).eng.cnt } } := by
  unfold filterAddress
  split
  · rfl
  · split <;> rfl

/-- Two counters that move one after the other move once each. -/
theorem Counters.get_inc_inc {k l : CounterId} (hkl : k ≠ l) (c : Counters) (j : CounterId) :
    ((c.inc k).inc l).get j = if j = k ∨ j = l then satInc (c.get j) else c.get j := by
  rw [Counters.get_inc, Counters.get_inc]
  by_cases hk : j = k
  · rw [if_neg (hk ▸ hkl), if_pos hk, if_pos (.inl hk)]
  · rw [if_neg hk, if_congr (or_iff_right hk) rfl rfl]

/-! ### The way back to IDLE without a reply -/

/-- In WAITING a `Step` counts a good foreign frame and leads to DISCARD (R164, R167). -/
theorem step_foreign {t : Time} {r f : Bool} {rest : List Input} {frame : List Byte} (hok : s.params.ok = true)
    (hin : s.env.inputs = .event (.step t r f) :: rest) (hp : s.eng.phase = .waiting) (hi : s.eng.integrityOk = true)
    (hl : 3 < s.eng.rxCount) (hf : rxFrame s = .ok frame) (hc : crcMatches frame = true) (h0 : frame[0]? ≠ some 0)
    (ha : frame[0]? ≠ some s.eng.slaveAddr) :
    step s = .next ((inc .busMsg (s.setInputs rest)).setPhase .discard) :=
  calc step s = engineStep t r f (s.setInputs rest) := step_cons hok hin
    _ = validate (s.setInputs rest) := engineStep_waiting (s := s.setInputs rest) hp t r f
    _ = _ := validate_foreign (s := s.setInputs rest) hi hl hf hc h0 ha

/-- Past the inter-frame silence a `Step` leads from DISCARD to EMISSION (R148). -/
theorem step_discard {t : Time} {r f : Bool} {rest : List Input} (hok : s.params.ok = true)
    (hin : s.env.inputs = .event (.step t r f) :: rest) (hp : s.eng.phase = .discard)
    (ht : s.params.t35.toNat ≤ (t - s.eng.lastTs).toNat) :
    step s = .next ((s.setInputs rest).setPhase .emission) := by
  rw [step_cons hok hin]
  refine (engineStep_discard (s := s.setInputs rest) hp t r f).trans (congrArg _ (if_pos ?_))
  exact frameTimeout_iff.2 ht

/-- With nothing pending a `Step` leads from EMISSION to IDLE, and nothing is sent (R211). -/
theorem step_emission_idle {t : Time} {r f : Bool} {rest : List Input} (hok : s.params.ok = true)
    (hin : s.env.inputs = .event (.step t r f) :: rest) (hp : s.eng.phase = .emission) (he : s.eng.emit = .arm)
    (hx : s.eng.txPending = false) : step s = .next ((s.setInputs rest).setPhase .idle) :=
  (step_emission hok hin hp).trans ((emitter_arm (s := s.setInputs rest) he r f).trans (emitArm_idle hx))

/-- A Write Single Coil with a legal value leaves its existing coil at the level asked for (R190). -/
theorem get_coil_of_exec_wsc {a : Byte} {addr value : Word} {t : State} (hw : Table.wf s.params.nCoils s.eng.coil = true)
    (hv : value = 0x0000#16 ∨ value = 0xFF00#16) (hc : addr.toNat < s.params.nCoils)
    (h : exec (.wsc a (.fields addr value)) s = .next t) :
    Table.get t.eng.coil addr.toNat = decide (value = 0xFF00#16) := by
  have hcommit := (writeSingleCoil_legal a hv hc).symm.trans h
  obtain ⟨hl, -⟩ := Table.wf_iff.1 hw
  rw [(succeeds_of_commit hcommit).coil, State.setCoil_coil, Table.get_set (by omega), if_pos rfl]
  rfl

/-- A dispatched broadcast leaves nothing to send (R178): nothing was pending before, and its reply is thrown away. -/
theorem not_pending_of_broadcast {i : Instr} {t : State} (h : Inv s) (hp : s.eng.phase = .processingNoResponse)
    (hrun : exec i s = .next t) : t.eng.txPending = false := by
  obtain ⟨reply, -, -, hc⟩ := (exec_effect hrun).commits
  rw [CommitsReply, if_neg (by rw [hp]; nofun)] at hc
  exact hc.1.trans (not_pending_of_phase h (by rw [hp]; nofun))

/-! ### The bytes sent -/

/-- From `s` to `t` nothing was sent, or the one byte at the index while the engine was in E_SEND (R213, R214). -/
def SendsAtMostOne (s t : State) : Prop :=
  t.env.sent = s.env.sent ∨ ∃ v, s.eng.phase = .emission ∧ s.eng.emit = .send ∧
    Memory.read s.eng.txBuf s.eng.txIdx = some v ∧ t.env.sent = s.env.sent ++ [{ byte := v, de := s.eng.de }]

theorem EngineMove.sendsAtMostOne {e : Event} {t : State} (h : EngineMove s e t) : SendsAtMostOne s t := by
  cases h with
  | byteSent _ _ v hp he _ hv => exact .inr ⟨v, hp, he, hv, rfl⟩
  | byteDropped => exact .inl (by rw [lineError_env])
  | frameStarted => exact .inl (by rw [startFrame_env])
  | byteAbsorbed => exact .inl (by rw [absorb_env])
  | frameFiltered => exact .inl (by rw [filterAddress_env, inc_env])
  | requestRun _ _ _ _ _ _ _ _ _ _ _ hrun => exact .inl (by rw [(exec_effect hrun).frame.env])
  | _ => exact .inl rfl

theorem step_sendsAtMostOne {t : State} (h : step s = .next t) : SendsAtMostOne s t := by
  obtain ⟨-, rfl⟩ | ⟨-, rfl | ⟨e, hm⟩⟩ := step_cases h
  · exact .inl rfl
  · exact .inl (by rw [hostWrites_env, afterInput_sent])
  · simpa [SendsAtMostOne, hostWrites_eq] using hm.sendsAtMostOne

end Sys2Proof.Machine

namespace Sys2Proof.Proofs

open Sys2Proof.Machine Sys2Proof.Safety

/-- Settles O17: each of the three causes makes the validator reject the frame. -/
theorem badFrameIsDiscarded : Obligations.BadFrameIsDiscarded := by
  intro s t r f hp hbad
  refine ⟨rejectFrame s, ?_, rejectFrame_countsOne s, rfl⟩
  refine (engineStep_waiting hp t r f).trans (validate_reject (hbad.imp_right (.imp_right ?_)))
  rintro ⟨frame, hf, hne⟩
  exact ⟨frame, hf, Bool.eq_false_iff.2 fun hc => hne ((crcMatches_iff_toNat frame).1 hc)⟩

/-- Settles O18: the filter's three outcomes, after the count of the good frame. -/
theorem goodFrameIsFilteredByAddress : Obligations.GoodFrameIsFilteredByAddress := by
  intro s t r f frame hp hok hl hf hcrc
  have hc := (crcMatches_iff_toNat frame).2 hcrc
  have hrun : applyEvent (.step t r f) s = .next (filterAddress (frame.getD 0 0) (inc .busMsg s)) :=
    (engineStep_waiting hp t r f).trans (validate_accept hok hl hf hc)
  refine ⟨_, hrun, filterAddress_frame _ (inc .busMsg s), ?_⟩
  rw [rxFrame_getElem?_zero hf hl]
  generalize frame.getD 0 0 = a
  simp only [ne_eq, Option.some.injEq]
  refine ⟨?broadcast, ?unicast, fun h0 ha => ?foreign⟩
  case broadcast =>
    rintro rfl
    rw [filterAddress_broadcast]
    exact ⟨rfl, Counters.get_inc_inc (k := .busMsg) (l := .noResp) nofun _⟩
  case unicast =>
    rintro h0 (rfl : a = (inc .busMsg s).eng.slaveAddr)
    rw [filterAddress_unicast h0]
    exact ⟨rfl, Counters.get_inc_inc (k := .busMsg) (l := .slaveMsg) nofun _⟩
  case foreign =>
    rw [filterAddress_foreign (s := inc .busMsg s) h0 ha]
    exact ⟨rfl, inc_countsOne .busMsg s⟩

/-- Settles O19: WAITING, DISCARD, EMISSION, IDLE, each by the one `Step` that the phase waits for. -/
theorem foreignFrameIsDropped : Obligations.ForeignFrameIsDropped := by
  intro s t1 t2 t3 r1 r2 r3 f1 f2 f3 rest frame hok hp hi hl hf hc h0 ha hx he ht hin
  have hrun := calc core.run 3 s
    _ = core.run 2 _ := run_succ (step_foreign hok hin hp hi hl hf hc h0 ha)
    _ = core.run 1 _ := run_succ (step_discard hok rfl rfl ht)
    _ = .next _ := run_succ (step_emission_idle hok rfl rfl he hx)
  exact ⟨_, hrun, inc_countsOne .busMsg s, rfl⟩

/-- Settles O38: the dispatch leaves nothing pending, so the next `Step` ends the exchange; the coil is the dispatch's. -/
theorem broadcastTakesEffectUnanswered : Obligations.BroadcastTakesEffectUnanswered := by
  intro s t1 t2 r1 r2 f1 f2 rest frame h hok hp hi ht hf hin
  have hinv : Inv (s.setInputs (.event (.step t2 r2 f2) :: rest)) := { h with }
  have hlen := (readCells_spec hf).1
  obtain ⟨i, hd⟩ := decodeRequest_of_length (hlen ▸ (h.validated (.inr hp)).1) (hlen ▸ h.rxCountLe)
  obtain ⟨w, hrun⟩ := exec_request_goesOn (s := s.setInputs (.event (.step t2 r2 f2) :: rest)) (decodeRequest_ok hd).1
    (Params.nInputs_le hok)
  have hframe := (exec_effect hrun).frame
  have hidle : s.eng.emit = .arm := emit_eq_arm_of_not_pending h (not_pending_of_phase h (by rw [hp]; nofun))
  have hfirst : step s = .next w := (step_dispatches hok hin (.inr hp) ht hi hf hd).trans hrun
  have hsecond := step_emission_idle (s := w) (rest := rest) (hframe.params ▸ hok) (by rw [hframe.env]; rfl) hframe.phase
    (hframe.emit.trans hidle) (not_pending_of_broadcast hinv hp hrun)
  refine ⟨_, (run_succ hfirst).trans (run_succ hsecond), rfl, ?sent, ?de, fun a addr value hwsc hv hc => ?coil⟩
  case sent => show w.env.sent = s.env.sent; rw [hframe.env]; rfl
  case de => exact hframe.de.trans (h.deIffSending.trans (by rw [hidle]; rfl))
  case coil =>
    cases hd.symm.trans hwsc
    show Table.get w.eng.coil addr.toNat = _
    exact get_coil_of_exec_wsc hinv.coilCanonical hv hc hrun

/-- Settles O58: the byte sent is the first of the transmit buffer, where the invariant has no broadcast address. -/
theorem noReplyToBroadcastAddress : Obligations.NoReplyToBroadcastAddress := by
  intro s t x h hstep hidx hsent hx
  obtain hsame | ⟨v, -, he, hv, hone⟩ := step_sendsAtMostOne hstep
  · rw [hsame] at hsent
    exact absurd hsent (by simp)
  · have hxv : x = { byte := v, de := s.eng.de } := by simpa using hsent.symm.trans hone
    refine h.replyAddress (h.sendingPending (by rw [he]; nofun)) ?_
    rw [← hidx, hv, ← hx, hxv]

end Sys2Proof.Proofs
end

section
/-! The dispatcher, request by request: each check that fails is the exception it names (R180 to R182, R187 to R189, R192), and a
request that passes them runs as its reply form does, a Write Single Coil on the coil table it has written (R183, R190). -/

namespace Sys2Proof.Machine

open Sys2Proof.Safety

variable {s : State}

/-- Whatever runs as taking an exception goes on, and does what R265 says. -/
theorem takesException_of_eq {a f : Byte} {code : ExcCode} {r : Result} (h : r = takeException a f code s) :
    ∃ t, r = .next t ∧ TakesException a f (excByte code) s t := h ▸ takeException_ok a f code s

/-! ### Read Discrete Inputs -/

theorem readDiscreteInputs_badStart {start : Nat} (a : Byte) (quantity : Nat) (h : s.params.nInputs ≤ start) :
    readDiscreteInputs a start quantity s = takeException a 0x02#8 .illegalDataAddress s := by
  obtain ⟨-, hx⟩ | ⟨hin, -⟩ | ⟨hin, -⟩ := readDiscreteInputs_cases a start quantity s
  · exact hx
  · exact absurd hin (Nat.not_lt.2 h)
  · exact absurd hin (Nat.not_lt.2 h)

theorem readDiscreteInputs_pastEnd {start quantity : Nat} (a : Byte) (h : start < s.params.nInputs)
    (hend : s.params.nInputs < start + quantity) :
    readDiscreteInputs a start quantity s = takeException a 0x02#8 .illegalDataValue s := by
  obtain ⟨hout, -⟩ | ⟨-, -, hx⟩ | ⟨-, hin, -⟩ := readDiscreteInputs_cases a start quantity s
  · exact absurd h (Nat.not_lt.2 hout)
  · exact hx
  · exact absurd hend (Nat.not_lt.2 hin)

/-- The data bytes that answer a Read Discrete Inputs (R183). -/
def requestedData (start quantity : Nat) (s : State) : List Byte :=
  dataBytes (fun i => Table.get s.eng.di (start + i)) quantity

theorem requestedData_length (start quantity : Nat) (s : State) :
    (requestedData start quantity s).length = byteCount quantity := dataBytes_length _ _

/-- The byte count of R183 is the length of the data, so the reply is the frame of the `RDI.RSP` that carries them. -/
theorem readInputsReply_eq_bytes (a : Byte) (start quantity : Nat) (s : State) :
    readInputsReply a start quantity s = (Instr.rdiRsp a (requestedData start quantity s)).bytes := by
  rw [Instr.bytes, requestedData_length]; rfl

theorem readDiscreteInputs_inside {start quantity : Nat} (a : Byte) (h : start < s.params.nInputs)
    (hend : start + quantity ≤ s.params.nInputs) :
    readDiscreteInputs a start quantity s = exec (.rdiRsp a (requestedData start quantity s)) s := by
  obtain ⟨hout, -⟩ | ⟨-, hout, -⟩ | ⟨-, -, hx⟩ := readDiscreteInputs_cases a start quantity s
  · exact absurd h (Nat.not_lt.2 hout)
  · exact absurd hout (Nat.not_lt.2 hend)
  · rw [hx, readInputsReply_eq_bytes]; rfl

/-- A run of bits inside a table of at most 2000 fills at most 250 bytes (R9, R100). -/
theorem requestedData_length_le {start quantity : Nat} (hn : s.params.nInputs ≤ 2000)
    (hend : start + quantity ≤ s.params.nInputs) : (requestedData start quantity s).length ≤ 250 := by
  rw [requestedData_length, byteCount]; omega

theorem packsInputs_requestedData (start quantity : Nat) (s : State) :
    PacksInputs s.eng.di start quantity (requestedData start quantity s) := by
  refine ⟨requestedData_length start quantity s, fun j b hb k hk => ?_⟩
  rw [requestedData, dataBytes_getElem?] at hb
  split at hb
  · cases hb
    rw [dataByte_getLsbD _ _ _ hk, dataBit]
    by_cases hin : 8 * j + k < quantity <;> simp [hin]
  · cases hb

/-! ### Write Single Coil -/

theorem writeSingleCoil_badValue {value : Word} (a : Byte) (addr : Word) (h0 : value ≠ 0x0000#16) (h1 : value ≠ 0xFF00#16) :
    writeSingleCoil a addr value s = takeException a 0x05#8 .illegalDataValue s := by
  obtain ⟨-, -, hx⟩ | ⟨hv, -⟩ | ⟨hv, -⟩ := writeSingleCoil_cases a addr value s
  · exact hx
  · exact absurd hv (not_or.2 ⟨h0, h1⟩)
  · exact absurd hv (not_or.2 ⟨h0, h1⟩)

theorem writeSingleCoil_badAddress {addr value : Word} (a : Byte) (hv : value = 0x0000#16 ∨ value = 0xFF00#16)
    (hc : s.params.nCoils ≤ addr.toNat) :
    writeSingleCoil a addr value s = takeException a 0x05#8 .illegalDataAddress s := by
  obtain ⟨h0, h1, -⟩ | ⟨-, -, hx⟩ | ⟨-, hin, -⟩ := writeSingleCoil_cases a addr value s
  · exact absurd hv (not_or.2 ⟨h0, h1⟩)
  · exact hx
  · exact absurd hin (Nat.not_lt.2 hc)

/-- `i` is a `WSC` with these fields, or the pseudo-form that stands for it (R111). -/
def IsWriteCoil (i : Instr) (a : Byte) (addr value : Word) : Prop :=
  i = .wsc a (.fields addr value) ∨ (i = .wscOn a addr ∧ value = 0xFF00#16) ∨ (i = .wscOff a addr ∧ value = 0x0000#16)

theorem IsWriteCoil.exec_eq {i : Instr} {a : Byte} {addr value : Word} (h : IsWriteCoil i a addr value) (s : State) :
    exec i s = writeSingleCoil a addr value s := by
  obtain rfl | ⟨rfl, rfl⟩ | ⟨rfl, rfl⟩ := h <;> rfl

/-- With a legal value and an existing coil the write goes on: the coil is set and the request echoed (R190). -/
theorem writeSingleCoil_ok {addr value : Word} (a : Byte) (hv : value = 0x0000#16 ∨ value = 0xFF00#16)
    (hc : addr.toNat < s.params.nCoils) :
    ∃ t, writeSingleCoil a addr value s = .next t ∧
      Succeeds (writeCoilReply a addr value) (Table.set s.eng.coil addr.toNat (value == 0xFF00#16)) s t := by
  rw [writeSingleCoil_legal a hv hc]
  obtain ⟨t, ht, hs⟩ := commit_ok (reply := writeCoilReply a addr value)
    (s.setCoil (Table.set s.eng.coil addr.toNat (value == 0xFF00#16))) (by simp [writeCoilReply, Config.bufferCap])
  exact ⟨t, ht, hs.reply, hs.cnt, hs.coil, { hs.frame with }⟩

/-! ### Requests as reply forms -/

/-- The result of one of the three reply forms with address byte `a`, of a `WSC.RSP` on the table with its coil written (log 11). -/
inductive RunsAsReply (a : Byte) (s : State) : Result → Prop
  | readInputs (data : List Byte) (fits : data.length ≤ 250) : RunsAsReply a s (exec (.rdiRsp a data) s)
  | writeCoil (c v : Word) (inside : c.toNat < s.params.nCoils) :
      RunsAsReply a s (exec (.wscRsp a c v) (s.setCoil (Table.set s.eng.coil c.toNat (decide (v = 0xFF00#16)))))
  | exception (f : BitVec 7) (code : ExcCode) : RunsAsReply a s (exec (.exc a f code) s)

theorem runsAsReply_takeException (a f : Byte) (code : ExcCode) (s : State) :
    RunsAsReply a s (takeException a f code s) := by
  rw [← exec_exc_setWidth]; exact .exception _ code

theorem runsAsReply_readDiscreteInputs (a : Byte) (start quantity : Nat) (hn : s.params.nInputs ≤ 2000) :
    RunsAsReply a s (readDiscreteInputs a start quantity s) := by
  obtain hstart | hout := Nat.lt_or_ge start s.params.nInputs
  · obtain hpast | hend := Nat.lt_or_ge s.params.nInputs (start + quantity)
    · rw [readDiscreteInputs_pastEnd a hstart hpast]; exact runsAsReply_takeException ..
    · rw [readDiscreteInputs_inside a hstart hend]; exact .readInputs _ (requestedData_length_le hn hend)
  · rw [readDiscreteInputs_badStart a quantity hout]; exact runsAsReply_takeException ..

theorem runsAsReply_writeSingleCoil (a : Byte) (addr value : Word) (s : State) :
    RunsAsReply a s (writeSingleCoil a addr value s) := by
  obtain ⟨-, -, h⟩ | ⟨-, -, h⟩ | ⟨-, hc, h⟩ := writeSingleCoil_cases a addr value s <;> rw [h]
  · exact runsAsReply_takeException ..
  · exact runsAsReply_takeException ..
  · exact .writeCoil addr value hc

theorem runsAsReply_exec {i : Instr} (hn : s.params.nInputs ≤ 2000) (hi : i.direction = .request) :
    RunsAsReply i.address s (exec i s) := by
  cases i with
  | rdi a body =>
    cases body with
    | fields start quantity => exact runsAsReply_readDiscreteInputs a _ _ hn
    | malformed p => exact runsAsReply_takeException a _ _ s
  | wsc a body =>
    cases body with
    | fields addr value => exact runsAsReply_writeSingleCoil a addr value s
    | malformed p => exact runsAsReply_takeException a _ _ s
  | wscOn a addr => exact runsAsReply_writeSingleCoil a addr 0xFF00#16 s
  | wscOff a addr => exact runsAsReply_writeSingleCoil a addr 0x0000#16 s
  | illegal a f p => exact runsAsReply_takeException a f _ s
  | _ => cases hi

/-! ### A dispatch in a clock cycle -/

/-- In a cycle without reset and without a byte, the processing step follows the host writes (R231, R241). -/
theorem clockEdge_step {p : PortsIn} (hrst : p.rst = false) (hbyte : p.rxValid = false) :
    clockEdge p s = engineStep p.nowUs p.txReady p.txFlushed (hostWrites p s) := by
  rw [clockEdge, hrst, cycleEvent, hbyte, Bool.and_false]; rfl

/-- Past the silence, such a cycle runs the request received on the state that its host writes leave. -/
theorem clockEdge_dispatches {p : PortsIn} {frame : List Byte} {i : Instr} (hrst : p.rst = false) (hbyte : p.rxValid = false)
    (hp : s.eng.phase = .processingResponse ∨ s.eng.phase = .processingNoResponse)
    (ht : s.params.t35.toNat ≤ (p.nowUs - s.eng.lastTs).toNat) (hi : s.eng.integrityOk = true)
    (hf : rxFrame s = .ok frame) (hd : decodeRequest frame = .ok i) : clockEdge p s = exec i (hostWrites p s) := by
  have hsilence : frameTimeout p.nowUs (hostWrites p s) = true := by
    rw [frameTimeout_iff, hostWrites_eq]; exact ht
  calc clockEdge p s = engineStep p.nowUs p.txReady p.txFlushed (hostWrites p s) := clockEdge_step hrst hbyte
    _ = stepProcessing p.nowUs (hostWrites p s) := engineStep_processing (by rwa [hostWrites_phase]) _ _ _
    _ = dispatch (hostWrites p s) := stepProcessing_dispatch hsilence ((hostWrites_integrityOk p s).trans hi)
    _ = exec i (hostWrites p s) := dispatch_eq ((rxFrame_hostWrites p s).trans hf) hd

/-- An existing coil shows its level of this very state (R239). -/
theorem hostGetCoil_inside {c : Word} (hc : c.toNat < s.params.nCoils) : hostGetCoil c s = Table.get s.eng.coil c.toNat := by
  rw [hostGetCoil, decide_eq_true hc, Bool.true_and]

end Sys2Proof.Machine

namespace Sys2Proof.Proofs

open Sys2Proof.Machine Sys2Proof.Safety

/-- Settles O23: the request runs as the `RDI.RSP` that carries the requested bits, packed. -/
theorem readInputsAnswersPackedBits : Obligations.ReadInputsAnswersPackedBits := by
  intro s a start quantity hok hstart hend
  have hfits := requestedData_length_le (Params.nInputs_le hok) hend
  obtain ⟨t, ht, hs⟩ := exec_rdiRsp_ok a (requestedData start.toNat quantity.toNat s) s hfits
  exact ⟨t, _, (readDiscreteInputs_inside a hstart hend).trans ht, packsInputs_requestedData _ _ s, hfits, hs⟩

/-- Settles O24: the start passes its check, the exact sum does not pass the next one. -/
theorem readInputsPastEndIsIllegalData : Obligations.ReadInputsPastEndIsIllegalData :=
  fun _ a _ _ hstart hend => takesException_of_eq (code := .illegalDataValue) (readDiscreteInputs_pastEnd a hstart hend)

/-- Settles O25: a malformed body is the exception by definition, the other two checks by `readDiscreteInputs_badStart` and
`writeSingleCoil_badValue`. -/
theorem decidedRequestErrors : Obligations.DecidedRequestErrors := by
  refine fun s a => ⟨fun _ => ?rdiLength, fun start quantity hout => ?rdiStart, fun _ => ?wscLength,
    fun addr value h0 h1 => ?wscValue⟩
  case rdiLength => exact takeException_ok a 0x02#8 .illegalDataValue s
  case rdiStart => exact takesException_of_eq (code := .illegalDataAddress) (readDiscreteInputs_badStart a _ hout)
  case wscLength => exact takeException_ok a 0x05#8 .illegalDataValue s
  case wscValue => exact takesException_of_eq (code := .illegalDataValue) (writeSingleCoil_badValue a addr h0 h1)

/-- Settles O26: the three forms are one write, whose echo is the request's own bytes. -/
theorem writeCoilSetsLevelAndEchoes : Obligations.WriteCoilSetsLevelAndEchoes := by
  intro s a a1 a0 v1 v0 i hw hv hc (hi : IsWriteCoil i a (be16 a1 a0) (be16 v1 v0))
  obtain ⟨t, ht, hs⟩ := writeSingleCoil_ok a hv hc
  obtain ⟨hl, -⟩ := Table.wf_iff.1 hw
  have hecho : writeCoilReply a (be16 a1 a0) (be16 v1 v0) = [a, 0x05, a1, a0, v1, v0] := by simp [writeCoilReply]
  refine ⟨t, (hi.exec_eq s).trans ht, { hs with reply := hecho ▸ hs.reply, coil := rfl }, fun j => ?_⟩
  rw [hs.coil, Table.get_set (by omega)]
  rfl

/-- Settles O27: the three forms are one write, whose address check fails. -/
theorem writeCoilBadAddressIsIllegalAddress : Obligations.WriteCoilBadAddressIsIllegalAddress := by
  intro s a addr value i hv hc (hi : IsWriteCoil i a addr value)
  exact takesException_of_eq (code := .illegalDataAddress) ((hi.exec_eq s).trans (writeSingleCoil_badAddress a hv hc))

/-- Settles O28: the meaning of the form is the exception, which always goes on. -/
theorem otherFunctionIsIllegal : Obligations.OtherFunctionIsIllegal :=
  fun s a f _ => takeException_ok a f .illegalFunction s

/-- Settles O30: it is `runsAsReply_exec`, reply form by reply form. -/
theorem requestRunsAsItsReply : Obligations.RequestRunsAsItsReply := by
  intro s i hok hi
  have h := runsAsReply_exec (Params.nInputs_le hok) hi
  generalize exec i s = r at h ⊢
  cases h with
  | readInputs data fits => exact .inl ⟨data, fits, rfl⟩
  | writeCoil c v inside => exact .inr (.inl ⟨c, v, inside, rfl⟩)
  | exception f code => exact .inr (.inr ⟨f, code, rfl⟩)

/-- Settles O44: the request runs on what the host writes leave, so the level it asks for is the last one written. -/
theorem dispatchWinsOverHostWrite : Obligations.DispatchWinsOverHostWrite := by
  intro s p frame a addr value hw hrst hbyte _ _ hridx hp ht hi hf hd hv hc
  have hw' : Table.wf (hostWrites p s).params.nCoils (hostWrites p s).eng.coil = true := by
    rw [hostWrites_params]; exact wf_coil_hostWrites p hw
  have hc' : addr.toNat < (hostWrites p s).params.nCoils := by rwa [hostWrites_params]
  obtain ⟨u, hrun, -⟩ := writeSingleCoil_ok a hv hc'
  refine ⟨?_, u, (clockEdge_dispatches hrst hbyte hp ht hi hf hd).trans hrun, get_coil_of_exec_wsc hw' hv hc' hrun⟩
  rw [← hostGetCoil_inside hc, ← hridx]
  rfl

end Sys2Proof.Proofs
end

section
/-! The emitter, event by event: the ends of an exchange (R211, R215), the turn of the line (R212), the byte handed over (R213,
R214), and that only an input with the driver ready sends one. -/

namespace Sys2Proof.Machine

open Sys2Proof.Safety

variable {s : State}

/-! ### The arms of the event -/

theorem applyEvent_arm (hp : s.eng.phase = .emission) (he : s.eng.emit = .arm) (t : Time) (r f : Bool) :
    applyEvent (.step t r f) s = emitArm s := (engineStep_emission hp t r f).trans (emitter_arm he r f)

theorem applyEvent_send (hp : s.eng.phase = .emission) (he : s.eng.emit = .send) (t : Time) (r f : Bool) :
    applyEvent (.step t r f) s = emitSend r s := (engineStep_emission hp t r f).trans (emitter_send he r f)

theorem applyEvent_flush (hp : s.eng.phase = .emission) (he : s.eng.emit = .flush) (t : Time) (r f : Bool) :
    applyEvent (.step t r f) s = .next (emitFlush f s) := (engineStep_emission hp t r f).trans (emitter_flush he r f)

theorem emitSend_not_ready (s : State) : emitSend false s = .next s := by
  unfold emitSend; rfl

/-- The byte handed over, register by register (R213, R214). -/
theorem byteSent_eq (he : s.eng.emit = .send) (v : Byte) : byteSent v s = { s with
    eng := { s.eng with
      txIdx := s.eng.txIdx + 1
      emit := if s.eng.txIdx + 1 = s.eng.txLen then .flush else .send }
    env := { s.env with sent := s.env.sent ++ [{ byte := v, de := s.eng.de }] } } := by
  unfold byteSent; rw [he]; rfl

/-- The cells of the buffer once the CRC is appended: low byte first, every other cell as before (R212). -/
theorem read_crc_written {sp : Space} {buf m : List Host.Cell} {n : Nat} {reply : List Byte}
    (h : writeBytes sp buf n (crcBytes reply) = .ok m) (i : Nat) :
    Memory.read m i = if i = n then some (loByte (crc16 reply))
      else if i = n + 1 then some (hiByte (crc16 reply)) else Memory.read buf i := by
  rw [writeBytes_spec h, crcBytes]
  obtain hlt | rfl | rfl | ⟨k, rfl⟩ : i < n ∨ i = n ∨ i = n + 1 ∨ ∃ k, i = n + (k + 2) := by
    by_cases hi : n + 2 ≤ i
    · exact .inr (.inr (.inr ⟨i - (n + 2), by omega⟩))
    · omega
  · rw [if_neg (by omega), if_neg (by omega), if_neg (by omega)]
  · simp
  · simp
  · simp

/-! ### No byte without the driver ready -/

theorem applyEvent_sent_of_not_ready {e : Event} {u : State} (hp : s.eng.phase = .emission) (he : s.eng.emit = .send)
    (hr : driverReady (.event e) = false) (h : applyEvent e s = .next u) : u.env.sent = s.env.sent := by
  cases e with
  | step t r f =>
    obtain rfl : r = false := hr
    rw [applyEvent_send hp he, emitSend_not_ready] at h
    cases h; rfl
  | rxByte => cases h; rw [rxByte_env]
  | hostSetInput => cases h; rw [hostSetInput_eq]; rfl
  | hostSetCoil => cases h; rw [hostSetCoil_eq]; rfl
  | _ => cases h; rfl

/-- The engine event of a clock cycle carries the driver's readiness of that cycle, or is a received byte. -/
theorem driverReady_cycleEvent_of_not_ready {p : PortsIn} (h : p.txReady = false) (rxEn : Bool) :
    driverReady (.event (cycleEvent p rxEn)) = false := by
  unfold cycleEvent
  split
  · rfl
  · exact h

theorem applyInput_sent_of_not_ready {i : Input} {u : State} (hp : s.eng.phase = .emission) (he : s.eng.emit = .send)
    (hr : driverReady i = false) (h : applyInput i s = .next u) : u.env.sent = s.env.sent := by
  cases i with
  | event e => exact applyEvent_sent_of_not_ready hp he hr h
  | clock p =>
    simp only [applyInput, clockEdge] at h
    split at h
    · cases h; rfl
    · rw [← hostWrites_env (s := s) p]
      exact applyEvent_sent_of_not_ready (by rwa [hostWrites_phase]) (by rw [hostWrites_eq]; exact he)
        (driverReady_cycleEvent_of_not_ready hr _) h

/-- A step in E_SEND that adds to the observation took an input with the driver ready (R213). -/
theorem driverReady_of_step_sends {t : State} (hp : s.eng.phase = .emission) (he : s.eng.emit = .send)
    (h : step s = .next t) (hne : t.env.sent ≠ s.env.sent) : driverReady (nextInput s) = true := by
  rw [step_ok (params_ok_of_step h)] at h
  by_contra hr
  exact hne (applyInput_sent_of_not_ready (s := afterInput s) hp he (Bool.not_eq_true _ ▸ hr) h)

/-- In E_SEND the ports show the byte at the index (R230). -/
theorem portsOut_sending {v : Byte} (he : s.eng.emit = .send) (hv : Memory.read s.eng.txBuf s.eng.txIdx = some v) (p : PortsIn) :
    (portsOut p s).txValid = true ∧ (portsOut p s).txData = v := by
  simp [portsOut, he, hv]

end Sys2Proof.Machine

namespace Sys2Proof.Proofs

open Sys2Proof.Machine Sys2Proof.Safety

/-- Settles O34: with room for the CRC the line is turned, and the two writes read back cell by cell. -/
theorem armAppendsCrcAndTurnsLine : Obligations.ArmAppendsCrcAndTurnsLine := by
  intro s t r f reply hp he hx hr hl
  obtain ⟨hlen, -⟩ := readCells_spec hr
  obtain ⟨m, hm, harm⟩ := emitArm_pending hx hr (hlen ▸ hl)
  exact ⟨lineTurned m s, (applyEvent_arm hp he t r f).trans harm, read_crc_written hm, rfl⟩

/-- Settles O36: it is `run_emission`, an induction on the bytes left to send. -/
theorem emissionSendsWholeFrame : Obligations.EmissionSendsWholeFrame := by
  intro s reply times rest hok hp he hx hr hl ht hin
  obtain ⟨u, hrun, hu⟩ := run_emission hok hp he hx hr hl ht hin
  exact ⟨u, hrun, hu.sent, hu.inputs, hu.params, hu.eng⟩

/-- Settles O57: at most one byte leaves, and only in E_SEND, where the invariant has `de = 1` and the buffer CRC-terminated. -/
theorem bytesLeaveOnlyWhileDriving : Obligations.BytesLeaveOnlyWhileDriving := by
  intro s t h hstep
  refine (step_sendsAtMostOne hstep).imp_right ?_
  rintro ⟨v, hp, he, hv, hsent⟩
  have hde : s.eng.de = true := h.deIffSending.trans (by rw [he]; rfl)
  have hready : driverReady (nextInput s) = true := driverReady_of_step_sends hp he hstep (by simp [hsent])
  have hcrc : ∀ frame, txFrame s = .ok frame → crcMatches frame = true :=
    fun frame hf => (h.crcTerminated (by rw [he]; nofun) frame hf).2
  exact ⟨v, hde ▸ hsent, hp, he, hv, hready, hcrc, portsOut_sending he hv⟩

/-- Settles O33: the three arms that end an exchange or wait for its end. -/
theorem exchangeEndsInIdle : Obligations.ExchangeEndsInIdle := by
  refine fun s t r f hp => ⟨fun he hx => ?nothingPending, fun he hf => ?notFlushed, fun he hf => ?flushed⟩
  case nothingPending => exact (applyEvent_arm hp he t r f).trans (emitArm_idle hx)
  case notFlushed => subst hf; exact applyEvent_flush hp he t r false
  case flushed => subst hf; rw [applyEvent_flush hp he, emitFlush, if_pos rfl, releaseLine_eq]

/-- Settles O35: without the driver nothing happens; with it the byte at the index is handed over. -/
theorem sendHandsOverOneByte : Obligations.SendHandsOverOneByte := by
  refine fun s t f hp he => ⟨?notReady, fun v hi hv => ?ready⟩
  case notReady => exact (applyEvent_send hp he t false f).trans (emitSend_not_ready s)
  case ready => rw [applyEvent_send hp he, emitSend_ready (readCell_ok.2 ⟨hi, hv⟩), byteSent_eq he]

end Sys2Proof.Proofs
end

section
/-! The host interface: what each read answers after a write (R235 to R242), the counters' port slice by slice (R240), and a clock
edge as the list of events it stands for (R231, R241). -/

namespace Sys2Proof.Machine

open Sys2Proof.Safety

variable {s : State}

/-! ### The bit tables, behind a bound -/

/-- A guarded read after a guarded write, for any table: the bit named reads as written if it exists, every other as before
(R236 to R239, R242). -/
theorem Table.guardedGet_guardedSet {n : Nat} {t : List Word} (i j : Word) (v : Bool) (ht : Table.wf n t = true) :
    (decide (j.toNat < n) && Table.get (if i.toNat < n then Table.set t i.toNat v else t) j.toNat) =
      if j = i ∧ i.toNat < n then v else decide (j.toNat < n) && Table.get t j.toNat := by
  obtain ⟨hl, -⟩ := Table.wf_iff.1 ht
  by_cases hi : i.toNat < n
  · rw [if_pos hi, Table.get_set (by omega)]
    by_cases hj : j = i
    · simp [hj, hi]
    · simp [hj, BitVec.toNat_inj]
  · simp [hi]

theorem hostGetInput_outside {j : Word} (hj : s.params.nInputs ≤ j.toNat) : hostGetInput j s = false := by
  rw [hostGetInput, decide_eq_false hj.not_gt, Bool.false_and]

theorem hostGetCoil_outside {j : Word} (hj : s.params.nCoils ≤ j.toNat) : hostGetCoil j s = false := by
  rw [hostGetCoil, decide_eq_false hj.not_gt, Bool.false_and]

theorem hostGetInput_hostSetInput (i j : Word) (v : Bool) (ht : Table.wf s.params.nInputs s.eng.di = true) :
    hostGetInput j (hostSetInput i v s) = if j = i ∧ i.toNat < s.params.nInputs then v else hostGetInput j s := by
  rw [hostSetInput_eq]
  exact Table.guardedGet_guardedSet i j v ht

theorem hostGetCoil_hostSetCoil (i j : Word) (v : Bool) (ht : Table.wf s.params.nCoils s.eng.coil = true) :
    hostGetCoil j (hostSetCoil i v s) = if j = i ∧ i.toNat < s.params.nCoils then v else hostGetCoil j s := by
  rw [hostSetCoil_eq]
  exact Table.guardedGet_guardedSet i j v ht

/-- The write port of the coil table does what the operation does, whatever the other two ports write (R238, R241). -/
theorem hostWrites_coil {p : PortsIn} (h : p.coilWe = true) :
    (hostWrites p s).eng.coil = (hostSetCoil p.coilWidx p.coilWdata s).eng.coil := by
  simp [hostWrites_eq, hostSetCoil_eq, h]

/-! ### The counters' port -/

/-- The 16 bits of the port from bit `16 * k` on are `cnt[k]`: the slice drops the `k` counters below and is the low part of what is
left (R230, R240). -/
theorem statWord_slices (c : Counters) :
    (statWord c).extractLsb' 0 16 = c.busMsg ∧ (statWord c).extractLsb' 16 16 = c.busErr ∧
    (statWord c).extractLsb' 32 16 = c.exc ∧ (statWord c).extractLsb' 48 16 = c.slaveMsg ∧
    (statWord c).extractLsb' 64 16 = c.noResp ∧ (statWord c).extractLsb' 80 16 = c.nak ∧
    (statWord c).extractLsb' 96 16 = c.busy ∧ (statWord c).extractLsb' 112 16 = c.overrun := by
  simp only [statWord, BitVec.extractLsb'_append_eq_of_le, BitVec.extractLsb'_append_eq_right, BitVec.extractLsb'_eq_self,
    Nat.reduceLeDiff, Nat.reduceSub, and_self]

/-! ### A clock edge as a list of events -/

theorem applyAll_cons {e : Event} {u : State} (h : applyEvent e s = .next u) (es : List Event) :
    applyAll (e :: es) s = applyAll es u := by
  rw [applyAll, h]

theorem applyAll_singleton (e : Event) (s : State) : applyAll [e] s = applyEvent e s := by
  rw [applyAll]
  cases applyEvent e s <;> rfl

/-- A write port in front of a list: its operation if the port is driven, nothing if it is not. -/
theorem applyAll_port {e : Event} {f : State → State} (he : ∀ s, applyEvent e s = .next (f s)) (we : Bool) (es : List Event)
    (s : State) : applyAll ((if we then [e] else []) ++ es) s = applyAll es (if we then f s else s) := by
  cases we with
  | false => rfl
  | true => exact applyAll_cons (he s) es

/-- The operations of the write ports, one after the other, are the host writes of the edge (R241). -/
theorem applyAll_portWrites (p : PortsIn) (es : List Event) (s : State) :
    applyAll (portWrites p ++ es) s = applyAll es (hostWrites p s) := by
  rw [portWrites, List.append_assoc, List.append_assoc, applyAll_port (f := hostSetAddr p.addrWdata) fun _ => rfl,
    applyAll_port (f := hostSetInput p.diWidx p.diWdata) fun _ => rfl,
    applyAll_port (f := hostSetCoil p.coilWidx p.coilWdata) fun _ => rfl]
  rfl

/-- An edge without reset is its host operations and then its engine event (R231, R241). -/
theorem clockEdge_eq_applyAll {p : PortsIn} (hrst : p.rst = false) (s : State) :
    clockEdge p s = applyAll (portWrites p ++ [cycleEvent p s.eng.rxEn]) s := by
  rw [applyAll_portWrites, applyAll_singleton, clockEdge, hrst]
  rfl

theorem cycleEvent_byte {p : PortsIn} {rxEn : Bool} (hen : rxEn = true) (hv : p.rxValid = true) :
    cycleEvent p rxEn = .rxByte p.rxData p.rxPerr p.rxFerr p.rxOerr p.nowUs := by
  rw [cycleEvent, hen, hv]
  rfl

theorem cycleEvent_step {p : PortsIn} {rxEn : Bool} (h : rxEn = false ∨ p.rxValid = false) :
    cycleEvent p rxEn = .step p.nowUs p.txReady p.txFlushed :=
  if_neg (by obtain h | h := h <;> simp [h])

end Sys2Proof.Machine

namespace Sys2Proof.Proofs

open Sys2Proof.Machine Sys2Proof.Safety

/-- Settles O40: it is the guarded read after the guarded write; outside the guard nothing is written and 0 is read. -/
theorem hostInputReadsBack : Obligations.HostInputReadsBack := by
  intro s i j v hw
  refine ⟨rfl, hostGetInput_outside, hostSetInput i v s, rfl, ?frame, hostGetInput_hostSetInput i j v hw⟩
  case frame => rw [hostSetInput_eq]; rfl

/-- Settles O41: as for the inputs, and the write port does what the operation does. -/
theorem hostCoilReadsBack : Obligations.HostCoilReadsBack := by
  intro s i j v hw
  refine ⟨rfl, hostGetCoil_outside, hostGetCoil_inside, fun _ => rfl, hostSetCoil i v s, rfl, ?frame,
    hostGetCoil_hostSetCoil i j v hw, ?port⟩
  case frame => rw [hostSetCoil_eq]; rfl
  case port => rintro p hwe rfl rfl; exact hostWrites_coil hwe

/-- Settles O43: `clockEdge_eq_applyAll`, with the engine event of each of the two cases. -/
theorem clockEdgeOrder : Obligations.ClockEdgeOrder := by
  refine fun s p => ⟨fun hrst => ?reset, fun hrst hen hv => ?byte, fun hrst h => ?step⟩
  case reset => rw [clockEdge, if_pos hrst]
  case byte => rw [clockEdge_eq_applyAll hrst, cycleEvent_byte hen hv]
  case step => rw [clockEdge_eq_applyAll hrst, cycleEvent_step h]

/-- Settles O39: the operation is the setter, and the port form is the address row of `hostWrites_eq`. -/
theorem hostAddressIsStored : Obligations.HostAddressIsStored :=
  fun s _ p => ⟨rfl, by rw [hostWrites_eq], rfl⟩

/-- Settles O42: the port is the counter file itself, slice by slice. -/
theorem statsAreReadWithoutClearing : Obligations.StatsAreReadWithoutClearing :=
  fun s _ => ⟨rfl, rfl, statWord_slices s.eng.cnt⟩

end Sys2Proof.Proofs
end
